-- ==== Sys2Proof/Word.lean ====
section
/-! DEFINITION. The byte and the block (`00_scope.md` section 6.1, R8), the units every rule of the
spec is written in. -/

namespace Sys2Proof

/-- A byte: 8 bits, bit 7 the most significant (`00_scope.md` section 6.1). -/
abbrev Byte := BitVec 8

/-- A block: a byte sequence of length 16, byte 0 first (`00_scope.md` section 6.1, R8). -/
abbrev Block := Vector Byte 16

/-- A word of the XOR datapath: four bytes, lane 0 first (`00_scope.md` R9, `XW = 4`). -/
abbrev Word := Vector Byte 4

/-- A command or response frame: a finite byte sequence (`30_encoding.md` R60). -/
abbrev Frame := List Byte

/-- Sixteen bytes `0x00`. -/
def zeroBlock : Block := Vector.replicate 16 0

/-- `n` bytes `0x00`. -/
def zeroBytes (n : Nat) : List Byte := List.replicate n 0

end Sys2Proof
end

