-- ==== Sys2Proof/Config.lean ====
section
/-! DEFINITION. What a configuration fixes (`00_scope.md` section 5). `KEYLEN` (R6) and `E` (R7) are the two
parameters the spec leaves OPEN: they are opaque, so no proof can use a value of either and a
theorem about the machine holds for every configuration. The constants are R8 and R10. -/

namespace Sys2Proof

/-- The type of the block cipher (`00_scope.md` R7): a total function of key bytes and a block. The
micro-operations take it as an argument, so that they also run on a fixture such as `TOY`. -/
abbrev Cipher := List Byte → Block → Block

namespace Config

/-- `KEYLEN - 1`. It has no body: see log entry 5. -/
opaque keyLenPred : Fin 255

/-- `KEYLEN`, the key length in bytes (`00_scope.md` R6): a positive integer no greater than 255, open otherwise. -/
def KEYLEN : Nat := keyLenPred.val + 1

/-- `E`, the block cipher (`00_scope.md` R7). It has no body: see log entry 6. -/
opaque E : Cipher

/-- The greatest number of data bytes one APPLY command carries (`00_scope.md` R10). -/
def LENMAX : Nat := 65535

theorem KEYLEN_pos : 0 < KEYLEN := Nat.succ_pos _

theorem KEYLEN_le : KEYLEN ≤ 255 := keyLenPred.isLt

end Config

end Sys2Proof
end

