-- ==== Sys2Proof/Syntax.lean ====
section
/-! DEFINITION. The five commands of the engine (`30_encoding.md` R66, R77) and the assembler's lines over
them (R74, R75). -/

namespace Sys2Proof

/-- A decoded command, one constructor per row of `spec/opcode_table.json`. `KLEN`, `CLEN` and `LEN`
are the lengths of the operands (`30_encoding.md` R68), so no term can hold a length that disagrees
with its bytes. -/
inductive Instr where
  /-- INIT `KEYB`, `ICTR`: `0x01`, format L (R64, `44_lifecycle.md` R125). -/
  | init (keyb ictr : List Byte)
  /-- APPLY `DATA`: `0x02`, format S (R65, `43_apply.md` R114). -/
  | apply (data : List Byte)
  /-- APPLYB `D0`: `0x03`, format B (R63, `43_apply.md` R110). -/
  | applyb (d0 : Byte)
  /-- APPLYW `D0 D1 D2 D3`, lane 0 first: `0x04`, format W (R67, `43_apply.md` R112). -/
  | applyw (d0 d1 d2 d3 : Byte)
  /-- CLEAR: `0x05`, format Z (R62, `44_lifecycle.md` R128). -/
  | clear
  deriving DecidableEq, Repr

/-- One line of assembly (`30_encoding.md` R74, R75), its operands already read as bytes. -/
inductive Asm where
  /-- One of the five commands. -/
  | command (i : Instr)
  /-- `ENCRYPT <data>`: another name of `APPLY <data>` (R74). -/
  | encrypt (data : List Byte)
  /-- `DECRYPT <data>`: another name of `APPLY <data>` (R74). -/
  | decrypt (data : List Byte)
  /-- `RAW <hex>`: the bytes themselves, legal or not (R75). -/
  | raw (bytes : Frame)
  deriving DecidableEq, Repr

/-- Why a frame is `Illegal` (`30_encoding.md` R69, R70). The engine answers all three alike (R147). -/
inductive Illegal where
  /-- The empty frame. -/
  | emptyFrame
  /-- Byte 0 is `0x00` or `0x06` to `0xFF`. -/
  | reservedOpcode (op : Byte)
  /-- A defined opcode and a length other than the one R69 requires. -/
  | wrongLength (op : Byte)
  deriving DecidableEq, Repr

end Sys2Proof
end

