-- ==== Sys2Proof/WellFormed.lean ====
section
/-! DEFINITION. Which commands fit their frame's fields (`30_encoding.md` R69, last sentence): `KLEN`, `CLEN` at
most 255 and `LEN` at most `LENMAX`. Whether the lengths are the RIGHT ones is INIT's business, not
the decoder's (R64). -/

namespace Sys2Proof

/-- The operands fit the fields of the command's frame. -/
def Instr.wellFormed : Instr → Bool
  | .init keyb ictr => decide (keyb.length ≤ 255) && decide (ictr.length ≤ 255)
  | .apply data => decide (data.length ≤ Config.LENMAX)
  | .applyb _ => true
  | .applyw _ _ _ _ => true
  | .clear => true

end Sys2Proof
end

