-- ==== Sys2Proof/Decode.lean ====
section
/-! DEFINITION. The decoder of `30_encoding.md` R69, total on every byte sequence and rejecting by name, and after
it the encoder from the format tables (R62 to R67), the assembler (R74, R75), the host's API as
commands (R76), and the host's view of an opcode-table word. -/

namespace Sys2Proof

/-! ## Field helpers -/

/-- A 16-bit field, first byte on the wire most significant (`00_scope.md` R14, `30_encoding.md` R68). -/
def be16 (hi lo : Byte) : Nat := 256 * hi.toNat + lo.toNat

/-- The high byte of a 16-bit field. -/
def be16Hi (n : Nat) : Byte := BitVec.ofNat 8 (n / 256)

/-- The low byte of a 16-bit field. -/
def be16Lo (n : Nat) : Byte := BitVec.ofNat 8 n

/-! ## The decoder -/

/-- Format L after the opcode: `KLEN`, `CLEN`, then the key and the counter bytes (R64, R69). -/
def decodeInit (rest : Frame) : Except Illegal Instr :=
  match rest with
  | klen :: clen :: body =>
    if body.length = klen.toNat + clen.toNat then
      .ok (.init (body.take klen.toNat) (body.drop klen.toNat))
    else .error (.wrongLength 0x01)
  | _ => .error (.wrongLength 0x01)

/-- Format S after the opcode: the two bytes of `LEN`, then the data (R65, R69). -/
def decodeApply (rest : Frame) : Except Illegal Instr :=
  match rest with
  | hi :: lo :: data =>
    if data.length = be16 hi lo then .ok (.apply data) else .error (.wrongLength 0x02)
  | _ => .error (.wrongLength 0x02)

/-- Format B after the opcode: one byte (R63, R69). -/
def decodeApplyb (rest : Frame) : Except Illegal Instr :=
  match rest with
  | [d0] => .ok (.applyb d0)
  | _ => .error (.wrongLength 0x03)

/-- Format W after the opcode: four bytes, lane 0 first (R67, R69). -/
def decodeApplyw (rest : Frame) : Except Illegal Instr :=
  match rest with
  | [d0, d1, d2, d3] => .ok (.applyw d0 d1 d2 d3)
  | _ => .error (.wrongLength 0x04)

/-- Format Z after the opcode: nothing (R62, R69). -/
def decodeClear (rest : Frame) : Except Illegal Instr :=
  match rest with
  | [] => .ok .clear
  | _ => .error (.wrongLength 0x05)

/-- `decode(f)` (R69). It reads no state of the engine and never ignores or pads bytes. -/
def decode (f : Frame) : Except Illegal Instr :=
  match f with
  | [] => .error .emptyFrame
  | op :: rest =>
    if op = 0x01 then decodeInit rest
    else if op = 0x02 then decodeApply rest
    else if op = 0x03 then decodeApplyb rest
    else if op = 0x04 then decodeApplyw rest
    else if op = 0x05 then decodeClear rest
    else .error (.reservedOpcode op)

/-! ## The encoder -/

/-- The opcode map (R66). -/
def opcode : Instr → Byte
  | .init _ _ => 0x01
  | .apply _ => 0x02
  | .applyb _ => 0x03
  | .applyw _ _ _ _ => 0x04
  | .clear => 0x05

/-- The operand bytes that follow the opcode (the format tables, R62 to R67). DESIGN CHOICE, log entry 24: the
spec gives no frame for operands that do not fit their fields; here the length field is then written
modulo 256 or 65536. -/
def encodeOperands : Instr → Frame
  | .init keyb ictr => BitVec.ofNat 8 keyb.length :: BitVec.ofNat 8 ictr.length :: (keyb ++ ictr)
  | .apply data => be16Hi data.length :: be16Lo data.length :: data
  | .applyb d0 => [d0]
  | .applyw d0 d1 d2 d3 => [d0, d1, d2, d3]
  | .clear => []

/-- The frame of a command (R62 to R68). -/
def encode (i : Instr) : Frame := opcode i :: encodeOperands i

/-- The column "frame length" of R66. -/
def frameLength : Instr → Nat
  | .init keyb ictr => 3 + keyb.length + ictr.length
  | .apply data => 3 + data.length
  | .applyb _ => 2
  | .applyw _ _ _ _ => 5
  | .clear => 1

/-- The same column read from a frame's first three bytes, a missing byte read as zero: the length a frame
must have, none for a reserved opcode (R66, R69). -/
def requiredLength (f : Frame) : Option Nat :=
  let op := f.getD 0 0
  let b1 := f.getD 1 0
  let b2 := f.getD 2 0
  if op = 0x01 then some (3 + b1.toNat + b2.toNat)
  else if op = 0x02 then some (3 + be16 b1 b2)
  else if op = 0x03 then some 2
  else if op = 0x04 then some 5
  else if op = 0x05 then some 1
  else none

/-! ## The assembler and the host's API -/

/-- The frame of a line of assembly (R74, R75). The spec gives no frame for a line whose operands do not fit their
fields; what `encode` writes then is the model's choice, log entry 24. -/
def assemble : Asm → Frame
  | .command i => encode i
  | .encrypt data => encode (.apply data)
  | .decrypt data => encode (.apply data)
  | .raw bytes => bytes

/-- The line a disassembler prints for a frame: a command under its own mnemonic, never a pseudo-command
(R74), and `RAW` for a frame that spells no command (R75). -/
def disassemble (f : Frame) : Asm :=
  match decode f with
  | .ok i => .command i
  | .error _ => .raw f

/-- `input` cut into consecutive chunks of at most `LENMAX` bytes, at most `fuel` of them. DESIGN CHOICE, log
entry 25: where the cuts fall is open (R10, R73, R76 say only consecutive chunks); here each chunk
but the last is full. -/
def chunksOf : (fuel : Nat) → (input : List Byte) → List (List Byte)
  | 0, _ => []
  | fuel + 1, input =>
    if input.length ≤ Config.LENMAX then [input]
    else input.take Config.LENMAX :: chunksOf fuel (input.drop Config.LENMAX)

/-- `new StreamCipher(key, initialCounter)` as a command (R76). -/
def apiConstruct (key initialCounter : List Byte) : Instr := .init key initialCounter

/-- `apply(input)` as commands (R76, R73): one APPLY when the input fits, else one for each consecutive chunk. -/
def apiApply (input : List Byte) : List Instr :=
  (chunksOf (input.length + 1) input).map Instr.apply

/-- Tearing an instance down as a command (R76). -/
def apiTearDown : Instr := .clear

/-! ## An opcode-table word -/

/-- The bytes of a table word, bit 0 the least significant bit of the first byte. -/
def tableBytes (nbits w : Nat) : Frame :=
  (List.range ((nbits + 7) / 8)).map fun k => BitVec.ofNat 8 (w / 256 ^ k)

/-- The frame of a table word: its bytes, then zero bytes up to the length its opcode and length fields
ask for (log entry 9). -/
def tableFrame (nbits w : Nat) : Frame :=
  let given := tableBytes nbits w
  given ++ zeroBytes ((requiredLength given).getD 0 - given.length)

/-- The command the decoder reads from a table word. -/
def decodeTableWord (nbits w : Nat) : Option Instr := (decode (tableFrame nbits w)).toOption

end Sys2Proof
end

