-- ==== Sys2Proof/Machine/State.lean ====
section
/-! DEFINITION. The state of one engine (`10_state.md`), the ghost variables the spec describes an instance by (R26),
and the host's side of the interface, all as plain data. -/

namespace Sys2Proof.Machine

open Sys2Proof

/-- The five registers: the whole architectural state (`10_state.md` R20 to R25). -/
structure Registers where
  /-- `KEY`, `KEYLEN` bytes (R20); its length is kept by `Inv` (log entry 7). -/
  key : List Byte
  /-- `CTR`, the next counter block to be encrypted, byte 0 most significant (R21). -/
  ctr : Block
  /-- `KSB`, the last keystream block (R22). -/
  ksb : Block
  /-- `OFF`, exactly the values 0 to 16 (R23, R39). -/
  off : Fin 17
  /-- `VALID` (R24). -/
  valid : Bool
  deriving DecidableEq, Repr

/-- The ghost variables of an instance (R26). No hardware holds them and nothing below reads them to decide
anything. -/
structure Ghost where
  /-- `C0`, the initial counter. -/
  c0 : Block
  /-- `POS`, keystream bytes consumed since construction. -/
  pos : Nat
  /-- `NREF`, refills since construction. -/
  nref : Nat
  deriving DecidableEq, Repr

/-- One call on the block-cipher port (`20_memory.md` R47, R48). -/
structure CipherCall where
  key : List Byte
  block : Block
  result : Block
  deriving DecidableEq, Repr

/-- What the host can do to the engine (`10_state.md` R29): hand it a frame, or reset it
(`70_reset_and_hazards.md` R170). -/
inductive HostEvent where
  | frame (f : Frame)
  | reset
  deriving DecidableEq, Repr

/-- The machine. `regs` is the hardware; the other fields are no part of it (log entries 1 to 4). -/
structure State where
  /-- The five registers. -/
  regs : Registers
  /-- The ghost variables; they exist while `VALID = 1` (R26). -/
  ghost : Option Ghost
  /-- What the host is still to issue, in issue order (`20_memory.md` R50). -/
  script : List HostEvent
  /-- The response frames returned, oldest first (`30_encoding.md` R72). -/
  responses : List Frame
  /-- The calls made on the block-cipher port, oldest first (`20_memory.md` R48). -/
  cipherCalls : List CipherCall
  deriving DecidableEq, Repr

/-- Why the machine stops with a fault. There is no constructor: the spec treats no behaviour as a fault
(`93_implementation_defined.md`, end of part 1; `60_exceptions.md` R155), so nobody raises one, and
that is safe: every error is a response and a next state (log entry 8). -/
inductive Fault
  deriving DecidableEq, Repr

/-- Why the machine has no meaning for a command. -/
inductive Refusal where
  /-- Raised by an arm of `exec` whose command has no meaning yet. No arm raises it: every command of the
  table has its meaning. Raising it would be safe. -/
  | notModelled (mnemonic : String)
  deriving DecidableEq, Repr

/-- The values UNCONSTRUCT writes and reset leaves (`10_state.md` R36, `44_lifecycle.md` R125), for keys of
`keyLen` bytes. -/
def Registers.unconstructed (keyLen : Nat) : Registers where
  key := zeroBytes keyLen
  ctr := zeroBlock
  ksb := zeroBlock
  off := 16
  valid := false

/-- The machine right after reset (R36, `70_reset_and_hazards.md` R170, R171): the ghost variables do not
exist, the host has issued nothing and has been told nothing. -/
def State.reset : State where
  regs := Registers.unconstructed Config.KEYLEN
  ghost := none
  script := []
  responses := []
  cipherCalls := []

end Sys2Proof.Machine
end

