-- ==== Sys2Proof/Machine/Flags.lean ====
section
/-! DEFINITION. The engine's one predicate and its one flag (`10_state.md` R24, R27, R28): no carry, overflow, zero, sign or
parity flag exists. -/

namespace Sys2Proof.Machine

/-- `EXHAUSTED = (OFF == 16)` (`10_state.md` R27, `41_keystream_buffer.md` R91). -/
def exhausted (r : Registers) : Bool := r.off == 16

/-- `VALID`: the engine holds an instance (`10_state.md` R24). -/
def constructed (r : Registers) : Bool := r.valid

end Sys2Proof.Machine
end

