-- ==== Sys2Proof/Machine/Operands.lean ====
section
/-! DEFINITION. Operands: byte sequences as blocks and words, and the big-endian integer value of a block
(`00_scope.md` R13, R14; `30_encoding.md` R68). -/

namespace Sys2Proof.Machine

open Sys2Proof

/-- The block whose bytes are `l[0]` to `l[15]`. INIT calls it on sixteen bytes only (`44_lifecycle.md` R125),
where byte `i` on the wire becomes `CTR[i]` (`30_encoding.md` R68). -/
def blockOfBytes (l : List Byte) : Block := Vector.ofFn fun i => l.getD i.val 0

/-- The word of format W, lane `j` = `frame[1+j]` (`30_encoding.md` R68). -/
def wordOfLanes (d0 d1 d2 d3 : Byte) : Word := #v[d0, d1, d2, d3]

/-- `int(B)`: the big-endian value of a block (`00_scope.md` R13). -/
def intBE (b : Block) : Nat := b.toList.foldl (fun acc x => acc * 256 + x.toNat) 0

/-- `blk(v)`: byte `i` is digit `15 - i` of `v` to the base 256 (`00_scope.md` R13). -/
def blkBE (v : Nat) : Block := Vector.ofFn fun i => BitVec.ofNat 8 (v / 256 ^ (15 - i.val))

end Sys2Proof.Machine
end

