-- ==== Sys2Proof/Machine/Ops.lean ====
section
/-! DEFINITION. The named operations every command is composed of: the micro-operations of the three sub-blocks
(`40_counter_increment.md`, `41_keystream_buffer.md`, `42_xor_datapath.md`), UNCONSTRUCT, the two
ways a command ends (`raise` and `respond`, `60_exceptions.md` R141), and taking the host's next
event. Each takes the cipher or the key length as an argument (`00_scope.md` R6, R7). -/

namespace Sys2Proof.Machine

open Sys2Proof

/-! ## The XOR datapath -/

/-- XORB (`42_xor_datapath.md` R100). -/
def xorb (a k : Byte) : Byte := a ^^^ k

/-- XORW: lane by lane (`42_xor_datapath.md` R102). -/
def xorw (a k : Word) : Word :=
  #v[xorb a[0] k[0], xorb a[1] k[1], xorb a[2] k[2], xorb a[3] k[3]]

/-! ## The counter-increment engine -/

/-- The loop of INC128 with `n` bytes still to look at, the next one at index `n - 1`: add one to it and stop
unless it wrapped to zero (`40_counter_increment.md` R80). -/
def inc128From : (n : Nat) → n ≤ 16 → Block → Block
  | 0, _, ctr => ctr
  | i + 1, h, ctr =>
    let ctr' := ctr.set i (ctr[i] + 1) h
    if ctr'[i] = 0 then inc128From i (Nat.le_of_succ_le h) ctr' else ctr'

/-- INC128 (`40_counter_increment.md` R80). The carry out of byte 0 is discarded (R82). -/
def inc128 (ctr : Block) : Block := inc128From 16 (Nat.le_refl 16) ctr

/-! ## The keystream-buffer manager -/

/-- The ghost step of REFILL: `NREF <- NREF + 1` (`41_keystream_buffer.md` R92). -/
def Ghost.countRefill (g : Ghost) : Ghost := { g with nref := g.nref + 1 }

/-- The ghost step of TAKE: `POS <- POS + 1` (`41_keystream_buffer.md` R93). -/
def Ghost.countTake (g : Ghost) : Ghost := { g with pos := g.pos + 1 }

/-- REFILL (`41_keystream_buffer.md` R92): one call of `E` on `CTR` as it is now, then `OFF <- 0`, then
INC128. The call goes on the record of `20_memory.md` R48. -/
def refill (E : Cipher) (s : State) : State :=
  let block := E s.regs.key s.regs.ctr
  { s with
    regs := { s.regs with ksb := block, off := 0, ctr := inc128 s.regs.ctr }
    ghost := s.ghost.map Ghost.countRefill
    cipherCalls := s.cipherCalls ++ [{ key := s.regs.key, block := s.regs.ctr, result := block }] }

/-- Refill on demand: REFILL when EXHAUSTED, else nothing (the first two lines of BYTESTEP, R95). -/
def refillOnDemand (E : Cipher) (s : State) : State :=
  if exhausted s.regs then refill E s else s

/-- After refilling on demand a byte is there to take: the precondition `OFF <= 15` of TAKE (R93, R95). -/
theorem refillOnDemand_off_lt (E : Cipher) (s : State) : (refillOnDemand E s).regs.off.val < 16 := by
  unfold refillOnDemand
  split
  · exact Nat.zero_lt_succ _
  · next h =>
    have hne : s.regs.off ≠ 16 := by simpa [exhausted] using h
    have hlt := s.regs.off.isLt
    have : s.regs.off.val ≠ 16 := fun e => hne (Fin.ext e)
    omega

/-- TAKE (`41_keystream_buffer.md` R93): the byte at the offset, then the offset plus one. The precondition
`OFF <= 15` is an argument, so that TAKE cannot be asked for on an exhausted buffer. -/
def take (s : State) (h : s.regs.off.val < 16) : Byte × State :=
  (s.regs.ksb[s.regs.off.val],
   { s with
     regs := { s.regs with off := ⟨s.regs.off.val + 1, Nat.succ_lt_succ h⟩ }
     ghost := s.ghost.map Ghost.countTake })

/-- One keystream byte: refill on demand, then TAKE (`41_keystream_buffer.md` R95; the loop body of
`43_apply.md` R112). -/
def nextKeystreamByte (E : Cipher) (s : State) : Byte × State :=
  take (refillOnDemand E s) (refillOnDemand_off_lt E s)

/-- BYTESTEP(b) (`41_keystream_buffer.md` R95). -/
def byteStep (E : Cipher) (b : Byte) (s : State) : Byte × State :=
  let t := nextKeystreamByte E s
  (xorb b t.1, t.2)

/-- BYTESTEP on each byte, first to last (`43_apply.md` R114, `20_memory.md` R51). -/
def byteSteps (E : Cipher) : List Byte → State → List Byte × State
  | [], s => ([], s)
  | b :: bs, s =>
    let t := byteStep E b s
    let u := byteSteps E bs t.2
    (t.1 :: u.1, u.2)

/-- Four keystream bytes in lane order: the loop of APPLYW (`43_apply.md` R112). -/
def nextKeystreamWord (E : Cipher) (s : State) : Word × State :=
  let t0 := nextKeystreamByte E s
  let t1 := nextKeystreamByte E t0.2
  let t2 := nextKeystreamByte E t1.2
  let t3 := nextKeystreamByte E t2.2
  (wordOfLanes t0.1 t1.1 t2.1 t3.1, t3.2)

/-! ## Statuses, and how a command ends -/

/-- The five statuses (`60_exceptions.md` R140). -/
inductive Status where
  | ok
  | invalidKey
  | invalidCounter
  | notConstructed
  | illegalCommand
  deriving DecidableEq, Repr

/-- The status byte (`60_exceptions.md` R140). -/
def statusCode : Status → Byte
  | .ok => 0x00
  | .invalidKey => 0x01
  | .invalidCounter => 0x02
  | .notConstructed => 0x03
  | .illegalCommand => 0x04

/-- Return a response frame: the status byte, then the data (`30_encoding.md` R72). -/
def returnResponse (status : Status) (data : List Byte) (s : State) : State :=
  { s with responses := s.responses ++ [statusCode status :: data] }

/-- `respond(OK, data)` (`00_scope.md` section 6.2). -/
def respondOk (data : List Byte) (s : State) : State := returnResponse .ok data s

/-- `raise <Error>` (`60_exceptions.md` R141, R149): the one way an error is taken. The response is the status
byte alone, the registers stay as the command has left them, nothing is saved or latched, and so
there is no return from it (R150). -/
def raise (error : Status) (s : State) : State := returnResponse error [] s

/-- UNCONSTRUCT (`44_lifecycle.md` R125): every register at its reset value, the ghost variables gone
(`70_reset_and_hazards.md` R171). -/
def unconstruct (keyLen : Nat) (s : State) : State :=
  { s with regs := Registers.unconstructed keyLen, ghost := none }

/-- The reset event (`70_reset_and_hazards.md` R170, R171): UNCONSTRUCT, and no response. -/
def resetEvent (keyLen : Nat) (s : State) : State := unconstruct keyLen s

/-- Answer an undecodable frame (`30_encoding.md` R70, `60_exceptions.md` R147). -/
def rejectFrame (s : State) : State := raise .illegalCommand s

/-! ## The host's next event -/

/-- Take the event the host issues next (`20_memory.md` R50); none when the host has nothing to issue. -/
def nextEvent (s : State) : Option (HostEvent × State) :=
  match s.script with
  | [] => none
  | e :: rest => some (e, { s with script := rest })

/-- Put an event where the next step takes it. -/
def issueNext (e : HostEvent) (s : State) : State := { s with script := e :: s.script }

end Sys2Proof.Machine
end

