-- ==== Sys2Proof/Machine/Apply.lean ====
section
/-! DEFINITION. The apply commands (`43_apply.md`): APPLY, APPLYB, APPLYW. ENCRYPT and DECRYPT are APPLY (section 5 there). -/

namespace Sys2Proof.Machine

open Sys2Proof

/-- APPLYB(D0) (`43_apply.md` R110). -/
def applyByte (E : Cipher) (d0 : Byte) (s : State) : State :=
  if constructed s.regs then
    let t := byteStep E d0 s
    respondOk [t.1] t.2
  else raise .notConstructed s

/-- APPLYW(D) (`43_apply.md` R112). -/
def applyWord (E : Cipher) (d : Word) (s : State) : State :=
  if constructed s.regs then
    let t := nextKeystreamWord E s
    respondOk (xorw d t.1).toList t.2
  else raise .notConstructed s

/-- APPLY(DATA) (`43_apply.md` R114, R115). -/
def applyStream (E : Cipher) (data : List Byte) (s : State) : State :=
  if constructed s.regs then
    let t := byteSteps E data s
    respondOk t.1 t.2
  else raise .notConstructed s

/-- The meaning of APPLYB. -/
def execApplyb (d0 : Byte) (s : State) : Host.Outcome State Fault Refusal :=
  .next (applyByte Config.E d0 s)

/-- The meaning of APPLYW. -/
def execApplyw (d0 d1 d2 d3 : Byte) (s : State) : Host.Outcome State Fault Refusal :=
  .next (applyWord Config.E (wordOfLanes d0 d1 d2 d3) s)

/-- The meaning of APPLY. -/
def execApply (data : List Byte) (s : State) : Host.Outcome State Fault Refusal :=
  .next (applyStream Config.E data s)

end Sys2Proof.Machine
end

