-- ==== Sys2Proof/Machine/Lifecycle.lean ====
section
/-! DEFINITION. The lifecycle commands (`44_lifecycle.md`): INIT and CLEAR. -/

namespace Sys2Proof.Machine

open Sys2Proof

/-- The registers a successful INIT writes (`44_lifecycle.md` R125). -/
def Registers.fresh (keyb : List Byte) (ictr : Block) : Registers where
  key := keyb
  ctr := ictr
  ksb := zeroBlock
  off := 16
  valid := true

/-- INIT (`44_lifecycle.md` R125): the key length is checked first, the counter length second, and a failed
INIT unconstructs the engine whatever it held (R126). -/
def initialise (keyLen : Nat) (keyb ictr : List Byte) (s : State) : State :=
  if keyb.length ≠ keyLen then raise .invalidKey (unconstruct keyLen s)
  else if ictr.length ≠ 16 then raise .invalidCounter (unconstruct keyLen s)
  else
    respondOk []
      { s with
        regs := Registers.fresh keyb (blockOfBytes ictr)
        ghost := some { c0 := blockOfBytes ictr, pos := 0, nref := 0 } }

/-- CLEAR (`44_lifecycle.md` R128). -/
def clearEngine (keyLen : Nat) (s : State) : State := respondOk [] (unconstruct keyLen s)

/-- The meaning of INIT. -/
def execInit (keyb ictr : List Byte) (s : State) : Host.Outcome State Fault Refusal :=
  .next (initialise Config.KEYLEN keyb ictr s)

/-- The meaning of CLEAR. -/
def execClear (s : State) : Host.Outcome State Fault Refusal :=
  .next (clearEngine Config.KEYLEN s)

end Sys2Proof.Machine
end

