-- ==== Sys2Proof/Machine/Dispatch.lean ====
section
/-! DEFINITION. One arm per command of `spec/opcode_table.json`, each a call of its meaning. -/

namespace Sys2Proof.Machine

open Sys2Proof

def exec (i : Instr) (s : State) : Host.Outcome State Fault Refusal :=
  match i with
  | .init keyb ictr => Sys2Proof.Machine.execInit keyb ictr s
  | .apply data => Sys2Proof.Machine.execApply data s
  | .applyb d0 => Sys2Proof.Machine.execApplyb d0 s
  | .applyw d0 d1 d2 d3 => Sys2Proof.Machine.execApplyw d0 d1 d2 d3 s
  | .clear => Sys2Proof.Machine.execClear s

end Sys2Proof.Machine
end

