-- ==== Sys2Proof/Machine/Step.lean ====
section
/-! DEFINITION. One step: the engine performs the host's next event, whole (`00_scope.md` R11, `20_memory.md` R50, R52). -/

namespace Sys2Proof.Machine

open Sys2Proof

/-- Perform one command frame (`30_encoding.md` R60, R69): the command it decodes to, or the answer to an
illegal frame. Frame legality is the first check of all (`60_exceptions.md` R148). -/
def performFrame (f : Frame) (s : State) : Host.Outcome State Fault Refusal :=
  match decode f with
  | .ok i => exec i s
  | .error _ => .next (rejectFrame s)

/-- One step. With nothing issued the engine is idle and keeps its registers (`60_exceptions.md` section 9,
`70_reset_and_hazards.md` R172; log entry 10). -/
def step (s : State) : Host.Outcome State Fault Refusal :=
  match nextEvent s with
  | none => .next s
  | some (.reset, t) => .next (resetEvent Config.KEYLEN t)
  | some (.frame f, t) => performFrame f t

/-- `s` with the frame of a table word issued next (log entries 1 and 9). -/
def State.withFetchWord (s : State) (nbits w : Nat) : State :=
  issueNext (.frame (tableFrame nbits w)) s

end Sys2Proof.Machine
end

