-- ==== Sys2Proof/Safety.lean ====
section
/-! DEFINITION. The terms claims are stated in: the keystream as a function of position (`41_keystream_buffer.md` R98), the
invariants of the engine (`10_state.md` R31 to R35), what a run of commands is, and which responses
are legal (`30_encoding.md` R72). A safe run is one whose every step answers a next state that meets
`Inv` and `ResponsesLegal`. -/

namespace Sys2Proof.Machine

open Sys2Proof

/-! ## The keystream -/

/-- The block `n` places after a counter value (`blk((v + n) mod 2^128)`, `10_state.md` R34). -/
def counterBlock (v n : Nat) : Block := blkBE ((v + n) % 2 ^ 128)

/-- `keystream[j]` of an instance with key `key` and initial counter `c0` (`41_keystream_buffer.md` R98). -/
def keystream (E : Cipher) (key : List Byte) (c0 : Block) (j : Nat) : Byte :=
  (E key (counterBlock (intBE c0) (j / 16)))[j % 16]'(Nat.mod_lt _ (by decide))

/-- The keystream byte `j` places ahead of a register state: first what is left in `KSB`, then the blocks of
the counter values from `CTR` on (R93, R95). -/
def upcoming (E : Cipher) (r : Registers) (j : Nat) : Byte :=
  if h : r.off.val + j < 16 then r.ksb[r.off.val + j] else keystream E r.key r.ctr (r.off.val + j - 16)

/-- `data` exclusive-or the keystream `k`, byte by byte (`43_apply.md` R116). -/
def xorStream (data : List Byte) (k : Nat → Byte) : List Byte := data.mapIdx fun i b => b ^^^ k i

/-- How many refills `n` data bytes cause from a register state: the offset runs on from `OFF`, a refill at
each multiple of 16 that still has a byte to come (`41_keystream_buffer.md` R96). -/
def refillsFor (r : Registers) (n : Nat) : Nat := (r.off.val + n - 1) / 16

/-- `ceil(n/16)`, the blocks `n` data bytes need from construction on (`10_state.md` R33). -/
def blocksFor (n : Nat) : Nat := (n + 15) / 16

/-- The port calls for `m` consecutive counter values from `v` on (`20_memory.md` R48). -/
def callsFrom (E : Cipher) (key : List Byte) (v m : Nat) : List CipherCall :=
  (List.range m).map fun n =>
    { key := key, block := counterBlock v n, result := E key (counterBlock v n) }

/-- `r'` is `r` after `n` data bytes, register by register (`10_state.md` R33 to R35). -/
structure AdvancedBy (E : Cipher) (n : Nat) (r r' : Registers) : Prop where
  key : r'.key = r.key
  valid : r'.valid = r.valid
  off : r'.off.val = r.off.val + n - 16 * refillsFor r n
  ctr : intBE r'.ctr = (intBE r.ctr + refillsFor r n) % 2 ^ 128
  ksb : r'.ksb = if refillsFor r n = 0 then r.ksb else E r.key (counterBlock (intBE r.ctr) (refillsFor r n - 1))

/-! ## Invariants -/

/-- What holds of an instance with ghost variables `g` (`10_state.md` R33, R34, R35; the calls are
`20_memory.md` R48). -/
structure InstanceInv (s : State) (g : Ghost) : Prop where
  nref : g.nref = blocksFor g.pos
  off : s.regs.off.val = if g.pos % 16 = 0 then 16 else g.pos % 16
  ctr : intBE s.regs.ctr = (intBE g.c0 + g.nref) % 2 ^ 128
  ksb : s.regs.ksb =
    if g.nref = 0 then zeroBlock else Config.E s.regs.key (counterBlock (intBE g.c0) (g.nref - 1))
  calls : ∃ earlier, s.cipherCalls = earlier ++ callsFrom Config.E s.regs.key (intBE g.c0) g.nref

/-- The invariants of the engine: `KEY` has its width (R20), the ghost variables exist exactly while
`VALID = 1` (R26), an unconstructed engine holds the reset values (R32), and a constructed one meets
`InstanceInv` (R33 to R35). That `OFF` is at most 16 (R31) is its type. -/
structure Inv (s : State) : Prop where
  keyLength : s.regs.key.length = Config.KEYLEN
  ghostExists : s.ghost.isSome = s.regs.valid
  unconstructed : s.regs.valid = false → s.regs = Registers.unconstructed Config.KEYLEN
  constructed : ∀ g, s.ghost = some g → InstanceInv s g

/-- A legal response frame: status `0x00` with any data, or one of the four error statuses alone
(`30_encoding.md` R72, `60_exceptions.md` R140). -/
def legalResponse : Frame → Bool
  | [] => false
  | status :: data => status == 0x00 || (decide (status.toNat ≤ 4) && data.isEmpty)

/-- Every response returned is legal. -/
def ResponsesLegal (s : State) : Prop := ∀ r ∈ s.responses, legalResponse r = true

/-! ## Runs of commands -/

/-- The three apply commands (`43_apply.md`). -/
def carriesData : Instr → Bool
  | .init _ _ => false
  | .apply _ => true
  | .applyb _ => true
  | .applyw _ _ _ _ => true
  | .clear => false

/-- The data bytes of a command, in stream order (`20_memory.md` R44). -/
def payload : Instr → List Byte
  | .init _ _ => []
  | .apply data => data
  | .applyb d0 => [d0]
  | .applyw d0 d1 d2 d3 => [d0, d1, d2, d3]
  | .clear => []

/-- An INIT that succeeds (`44_lifecycle.md` R125). -/
def isGoodInit : Instr → Bool
  | .init keyb ictr => decide (keyb.length = Config.KEYLEN) && decide (ictr.length = 16)
  | .apply _ => false
  | .applyb _ => false
  | .applyw _ _ _ _ => false
  | .clear => false

/-- The commands performed one after the other, each to completion (`20_memory.md` R50). -/
def performAll : List Instr → State → Host.Outcome State Fault Refusal
  | [], s => .next s
  | i :: is, s =>
    match exec i s with
    | .next t => performAll is t
    | .fault r => .fault r
    | .refused r => .refused r

/-- The data of consecutive OK responses, concatenated (`43_apply.md` R117). -/
def responseData (rs : List Frame) : List Byte := rs.flatMap List.tail

end Sys2Proof.Machine
end

