-- ==== Sys2Proof/Certificates/Slice0/Obligations.lean ====
section
/-! DEFINITION. The statements for the provers. Each docstring names the rule of the spec it formalises. Where a
statement quantifies over every command, it also covers commands too long for their frame's fields:
no frame decodes to one, what `exec` does with one is log entry 13, what `encode` writes is log entry 24. -/

open Sys2Proof Sys2Proof.Machine

/-! ## Reset, idling, the step -/

/-- `10_state.md` R36: every register has its stated value after reset, and the ghost variables do not exist. -/
def Obligations.ResetLeavesStatedValues : Prop :=
  State.reset.regs.valid = false ∧
  State.reset.regs.key = List.replicate Config.KEYLEN 0 ∧
  State.reset.regs.ctr.toList = List.replicate 16 0 ∧
  State.reset.regs.ksb.toList = List.replicate 16 0 ∧
  State.reset.regs.off = 16 ∧
  State.reset.ghost = none

/-- `70_reset_and_hazards.md` R171: reset writes the five values, whatever the engine held, drops the ghost
variables and makes no call of `E`; CLEAR and a failed INIT leave the same registers. That the event
gives no response is R170. -/
def Obligations.ResetEventUnconstructs : Prop :=
  (∀ (s : State) (rest : List HostEvent), s.script = .reset :: rest →
    step s = .next { s with
      script := rest
      regs := { key := List.replicate Config.KEYLEN 0, ctr := zeroBlock, ksb := zeroBlock, off := 16, valid := false }
      ghost := none }) ∧
  (∀ s : State, ∃ t, exec .clear s = .next t ∧ t.regs = State.reset.regs ∧ t.ghost = State.reset.ghost) ∧
  (∀ (s : State) (k c : List Byte), isGoodInit (.init k c) = false →
    ∃ t, exec (.init k c) s = .next t ∧ t.regs = State.reset.regs ∧ t.ghost = State.reset.ghost)

/-- Between commands the engine is idle and keeps its registers (`60_exceptions.md` section 9; R172). That an
idle step is a step at all is the model's choice, log entry 10. -/
def Obligations.IdleStepChangesNothing : Prop :=
  ∀ s : State, s.script = [] → step s = .next s

/-- A step takes the next frame off the host's script and performs the command it decodes to (R50, R60, R69).
The script is the model's own field, log entry 1. -/
def Obligations.StepPerformsDecodedCommand : Prop :=
  ∀ (s : State) (f : Frame) (rest : List HostEvent) (i : Instr),
    s.script = .frame f :: rest → decode f = .ok i → step s = exec i { s with script := rest }

/-- `60_exceptions.md` R155: no state is stuck; every step answers a next state. That a step takes at most one
event off the host's script (one if there is one) is the model's form, log entry 1, and that with
nothing issued the step is an idle one is log entry 10. -/
def Obligations.EveryStepAnswersNext : Prop :=
  ∀ s : State, ∃ t, step s = .next t ∧ t.script = s.script.tail

/-! ## Frames -/

/-- Frames written out from the format tables (R62 to R67) decode to their commands. -/
def Obligations.SpecFramesDecode : Prop :=
  decode [0x01, 0x02, 0x01, 0xAA, 0xBB, 0xCC] = .ok (.init [0xAA, 0xBB] [0xCC]) ∧
  decode [0x01, 0x00, 0x00] = .ok (.init [] []) ∧
  decode [0x02, 0x00, 0x03, 0x41, 0x42, 0x43] = .ok (.apply [0x41, 0x42, 0x43]) ∧
  decode [0x02, 0x00, 0x00] = .ok (.apply []) ∧
  decode [0x03, 0x6B] = .ok (.applyb 0x6B) ∧
  decode [0x04, 0x6B, 0xC1, 0xBE, 0xE2] = .ok (.applyw 0x6B 0xC1 0xBE 0xE2) ∧
  decode [0x05] = .ok .clear

/-- `30_encoding.md` R69, last sentence: `decode(encode(c)) = c` for every command whose operands fit their
fields, of all five kinds. -/
def Obligations.DecodeOfEncodeIsTheCommand : Prop :=
  ∀ i : Instr, i.wellFormed = true → decode (encode i) = .ok i

/-- Each frame the decoder accepts is the encoding of the command it reads, which fits its fields and has the
frame length of R66: no two frames spell one command. -/
def Obligations.LegalFrameIsItsCommandsEncoding : Prop :=
  ∀ (f : Frame) (i : Instr), decode f = .ok i →
    encode i = f ∧ i.wellFormed = true ∧ f.length = frameLength i

/-- `30_encoding.md` R70: which frames are illegal, what answers them, and that nothing else changes. -/
def Obligations.IllegalFramesExactlyAndUnchanged : Prop :=
  (∀ f : Frame, (∃ e, decode f = .error e) ↔
    f = [] ∨
    (∃ op rest, f = op :: rest ∧ (op = 0x00 ∨ 0x06 ≤ op.toNat)) ∨
    (∃ rest, f = 0x01 :: rest ∧ ∀ a b body, rest = a :: b :: body → body.length ≠ a.toNat + b.toNat) ∨
    (∃ rest, f = 0x02 :: rest ∧ ∀ a b body, rest = a :: b :: body → body.length ≠ 256 * a.toNat + b.toNat) ∨
    (∃ rest, f = 0x03 :: rest ∧ f.length ≠ 2) ∨
    (∃ rest, f = 0x04 :: rest ∧ f.length ≠ 5) ∨
    (∃ rest, f = 0x05 :: rest ∧ f.length ≠ 1)) ∧
  (∀ (s : State) (f : Frame) (rest : List HostEvent) (e : Illegal),
    s.script = .frame f :: rest → decode f = .error e →
    step s = .next { s with script := rest, responses := s.responses ++ [[0x04]] })

/-- `30_encoding.md` R74: ENCRYPT and DECRYPT are exactly APPLY, and a disassembler prints APPLY. For
data too long for a frame the first two clauses rest on log entry 24. -/
def Obligations.PseudoCommandsAreApply : Prop :=
  ∀ data : List Byte,
    assemble (.encrypt data) = assemble (.command (.apply data)) ∧
    assemble (.decrypt data) = assemble (.command (.apply data)) ∧
    (data.length ≤ 65535 →
      disassemble (assemble (.encrypt data)) = .command (.apply data) ∧
      disassemble (assemble (.decrypt data)) = .command (.apply data))

/-- `30_encoding.md` R72: one response a frame, of the status and length its table gives. -/
def Obligations.OneResponsePerFrame : Prop :=
  ∀ (s : State) (f : Frame) (rest : List HostEvent), s.script = .frame f :: rest →
    ∃ t r, step s = .next t ∧ t.script = rest ∧ t.responses = s.responses ++ [r] ∧
      match decode f with
      | .error _ => r = [0x04]
      | .ok (.init _ _) => r = [0x00] ∨ r = [0x01] ∨ r = [0x02]
      | .ok .clear => r = [0x00]
      | .ok i =>
        if s.regs.valid then ∃ data, r = 0x00 :: data ∧ data.length = (payload i).length else r = [0x03]

/-- `60_exceptions.md` R144 to R147: each error status is answered exactly when its rule says, and the state
after is the one its rule says. -/
def Obligations.ErrorsExactlyWhenStated : Prop :=
  ∀ (s : State) (f : Frame) (rest : List HostEvent), s.script = .frame f :: rest →
    ∃ t, step s = .next t ∧
      ((t.responses = s.responses ++ [[0x01]] ↔
          ∃ k c, decode f = .ok (.init k c) ∧ k.length ≠ Config.KEYLEN) ∧
        (t.responses = s.responses ++ [[0x01]] → t.regs = State.reset.regs)) ∧
      ((t.responses = s.responses ++ [[0x02]] ↔
          ∃ k c, decode f = .ok (.init k c) ∧ k.length = Config.KEYLEN ∧ c.length ≠ 16) ∧
        (t.responses = s.responses ++ [[0x02]] → t.regs = State.reset.regs)) ∧
      ((t.responses = s.responses ++ [[0x03]] ↔
          ∃ i, decode f = .ok i ∧ carriesData i = true ∧ s.regs.valid = false) ∧
        (t.responses = s.responses ++ [[0x03]] → t.regs = s.regs ∧ t.ghost = s.ghost ∧ t.cipherCalls = s.cipherCalls)) ∧
      ((t.responses = s.responses ++ [[0x04]] ↔ ∃ e, decode f = .error e) ∧
        (t.responses = s.responses ++ [[0x04]] → t.regs = s.regs ∧ t.ghost = s.ghost ∧ t.cipherCalls = s.cipherCalls))

/-- `60_exceptions.md` R140: no step ever returns a response outside the five statuses, or an error response
with data. -/
def Obligations.StepKeepsResponsesLegal : Prop :=
  ∀ s t : State, ResponsesLegal s → step s = .next t → ResponsesLegal t

/-! ## The counter-increment engine -/

/-- `40_counter_increment.md` R80: byte 15 is always incremented, another byte exactly when every byte to its
right was `0xFF`; the rest are unchanged. -/
def Obligations.Inc128CarryChain : Prop :=
  ∀ (b : Block) (i : Fin 16),
    (inc128 b)[i] = if ∀ j : Fin 16, i < j → b[j] = 0xFF then b[i] + 1 else b[i]

/-- `40_counter_increment.md` R81: INC128 adds one modulo 2^128 to the big-endian value. -/
def Obligations.Inc128AddsOneModulo : Prop :=
  ∀ b : Block,
    intBE (inc128 b) = (intBE b + 1) % 2 ^ 128 ∧ inc128 b = blkBE ((intBE b + 1) % 2 ^ 128)

/-- `00_scope.md` R13: the big-endian sum, `blk` as the inverse of `int`, and the bits a byte occupies. -/
def Obligations.IntAndBlkAreInverse : Prop :=
  (∀ b : Block, intBE b = ((List.finRange 16).map fun i => b[i].toNat * 256 ^ (15 - i.val)).sum) ∧
  (∀ b : Block, intBE b < 2 ^ 128 ∧ blkBE (intBE b) = b) ∧
  (∀ v : Nat, v < 2 ^ 128 → intBE (blkBE v) = v) ∧
  (∀ (b : Block) (i : Fin 16), (BitVec.ofNat 128 (intBE b)).extractLsb' (120 - 8 * i.val) 8 = b[i])

/-- `40_counter_increment.md` R82: a refill from the counter all `0xFF` leaves the counter all `0x00`, keeps the
instance, and the byte is answered as for any other counter value. -/
def Obligations.CounterWrapsSilently : Prop :=
  inc128 (Vector.replicate 16 0xFF) = zeroBlock ∧
  ∀ (s : State) (d : Byte), s.regs.valid = true → s.regs.off = 16 → s.regs.ctr = Vector.replicate 16 0xFF →
    ∃ t, exec (.applyb d) s = .next t ∧
      t.regs = { s.regs with
        ctr := zeroBlock, ksb := Config.E s.regs.key (Vector.replicate 16 0xFF), off := 1 } ∧
      t.responses = s.responses ++ [[(0x00 : Byte), d ^^^ (Config.E s.regs.key (Vector.replicate 16 0xFF))[0]]]

/-! ## The XOR datapath -/

/-- `42_xor_datapath.md` R101, on the bits R100 gives. -/
def Obligations.XorbLaws : Prop :=
  (∀ a k : Byte, xorb a k = xorb k a) ∧
  (∀ a k l : Byte, xorb (xorb a k) l = xorb a (xorb k l)) ∧
  (∀ a k : Byte, xorb (xorb a k) k = a) ∧
  (∀ (a k : Byte) (i : Nat), i < 8 → (xorb a k).getLsbD i = (a.getLsbD i ^^ k.getLsbD i))

/-- `42_xor_datapath.md` R102 and R104: lane by lane, no lane reaching another, and the same as the 32-bit
exclusive-or with lane 0 most significant. -/
def Obligations.XorwIsLaneByLane : Prop :=
  ∀ a k : Word,
    (∀ j : Fin 4, (xorw a k)[j] = xorb a[j] k[j]) ∧
    ((xorw a k)[0] ++ (xorw a k)[1] ++ (xorw a k)[2] ++ (xorw a k)[3] : BitVec (8 + 8 + 8 + 8)) =
      (a[0] ++ a[1] ++ a[2] ++ a[3]) ^^^ (k[0] ++ k[1] ++ k[2] ++ k[3])

/-! ## The keystream-buffer manager -/

/-- `41_keystream_buffer.md` R92: REFILL calls `E` on the counter before the increment, writes `KSB` whole,
sets `OFF` to 0, adds one to the counter, and changes nothing else. -/
def Obligations.RefillReadsCounterThenIncrements : Prop :=
  ∀ (E : Cipher) (s : State),
    refill E s = { s with
      regs := { s.regs with ksb := E s.regs.key s.regs.ctr, off := 0, ctr := inc128 s.regs.ctr }
      ghost := s.ghost.map fun g => { g with nref := g.nref + 1 }
      cipherCalls := s.cipherCalls ++
        [{ key := s.regs.key, block := s.regs.ctr, result := E s.regs.key s.regs.ctr }] } ∧
    exhausted (refill E s).regs = false

/-- `41_keystream_buffer.md` R93: TAKE reads at the offset before it advances it, and changes nothing else. -/
def Obligations.TakeIsPostIncrementRead : Prop :=
  ∀ (s : State) (h : s.regs.off.val < 16),
    (take s h).1 = s.regs.ksb[s.regs.off.val] ∧
    (take s h).2.regs.off.val = s.regs.off.val + 1 ∧
    (take s h).2 = { s with
      regs := { s.regs with off := (take s h).2.regs.off }
      ghost := s.ghost.map fun g => { g with pos := g.pos + 1 } } ∧
    (exhausted (take s h).2.regs = true ↔ s.regs.off.val = 15)

/-- `10_state.md` R27, `41_keystream_buffer.md` R91: EXHAUSTED is `OFF = 16`, and in an instance it is true exactly
when the bytes consumed are a whole number of blocks. -/
def Obligations.ExhaustedAtBlockBoundaries : Prop :=
  (∀ r : Registers, exhausted r = true ↔ r.off.val = 16) ∧
  (∀ (s : State) (g : Ghost), Inv s → s.ghost = some g → (exhausted s.regs = true ↔ g.pos % 16 = 0))

/-- `20_memory.md` R55: after any INIT, CLEAR or reset the buffer is empty and zero; whatever the engine held, every
data byte of a new instance is answered under its own key and counter, and the first one causes a
REFILL under them. -/
def Obligations.NoStaleKeystream : Prop :=
  (∀ (s : State) (k c : List Byte), ∃ t, exec (.init k c) s = .next t ∧ t.regs.off = 16 ∧ t.regs.ksb = zeroBlock) ∧
  (∀ s : State, ∃ t, exec .clear s = .next t ∧ t.regs.off = 16 ∧ t.regs.ksb = zeroBlock) ∧
  (∀ (s : State) (rest : List HostEvent), s.script = .reset :: rest →
    ∃ t, step s = .next t ∧ t.regs.off = 16 ∧ t.regs.ksb = zeroBlock) ∧
  (∀ (s : State) (k c : List Byte) (d : Block) (cmds : List Instr),
    k.length = Config.KEYLEN → c = d.toList → (∀ i ∈ cmds, carriesData i = true) →
    ∃ a t rs, exec (.init k c) s = .next a ∧ performAll cmds a = .next t ∧
      t.responses = a.responses ++ rs ∧
      responseData rs = xorStream (cmds.flatMap payload) (keystream Config.E k d) ∧
      (cmds.flatMap payload ≠ [] →
        (t.cipherCalls.drop s.cipherCalls.length).head? =
          some { key := k, block := d, result := Config.E k d }))

/-! ## The lifecycle commands -/

/-- `44_lifecycle.md` R125: the frame of INIT, its two checks in their order, the state a failed INIT leaves, and
the registers and ghost variables a successful one writes. For operands above the 255
bytes of R125, which no frame carries, the clauses are the model's choice, log entries 13 and 24. -/
def Obligations.InitLoadsOrUnconstructs : Prop :=
  ∀ (s : State) (k c : List Byte),
    encode (.init k c) =
      0x01 :: BitVec.ofNat 8 k.length :: BitVec.ofNat 8 c.length :: (k ++ c) ∧
    (k.length ≠ Config.KEYLEN →
      exec (.init k c) s = .next { s with
        regs := State.reset.regs, ghost := none, responses := s.responses ++ [[0x01]] }) ∧
    (k.length = Config.KEYLEN → c.length ≠ 16 →
      exec (.init k c) s = .next { s with
        regs := State.reset.regs, ghost := none, responses := s.responses ++ [[0x02]] }) ∧
    (∀ d : Block, k.length = Config.KEYLEN → c = d.toList →
      exec (.init k c) s = .next { s with
        regs := { key := k, ctr := d, ksb := zeroBlock, off := 16, valid := true }
        ghost := some { c0 := d, pos := 0, nref := 0 }
        responses := s.responses ++ [[0x00]] })

/-- `44_lifecycle.md` R128: CLEAR's frame, its effect in every state, that it is idempotent, and that every
apply command after it answers NotConstructed until a successful INIT. -/
def Obligations.ClearEndsTheInstance : Prop :=
  encode .clear = [0x05] ∧
  (∀ s : State, exec .clear s = .next { s with
    regs := State.reset.regs, ghost := none, responses := s.responses ++ [[0x00]] }) ∧
  (∀ s t u : State, exec .clear s = .next t → exec .clear t = .next u → u.regs = t.regs ∧ u.ghost = t.ghost) ∧
  (∀ (s : State) (cmds : List Instr) (i : Instr),
    (∀ j ∈ cmds, isGoodInit j = false) → carriesData i = true →
    ∃ t, performAll (.clear :: cmds) s = .next t ∧
      exec i t = .next { t with responses := t.responses ++ [[0x03]] })

/-- `44_lifecycle.md` R129: the two conditions of the engine, and the condition each event leads to. -/
def Obligations.LifecycleTransitions : Prop :=
  (∀ (s t : State) (i : Instr), exec i s = .next t →
    t.regs.valid = (isGoodInit i || (carriesData i && s.regs.valid)) ∧
    (carriesData i = false → isGoodInit i = false → t.regs = State.reset.regs)) ∧
  (∀ (s t : State) (f : Frame) (rest : List HostEvent) (e : Illegal),
    s.script = .frame f :: rest → decode f = .error e → step s = .next t → t.regs = s.regs) ∧
  (∀ (s t : State) (rest : List HostEvent),
    s.script = .reset :: rest → step s = .next t →
    t.regs = State.reset.regs ∧ t.responses = s.responses)

/-! ## The apply commands -/

/-- `43_apply.md` R120: an apply command on an unconstructed engine answers `03` and changes nothing else. -/
def Obligations.RefusedApplyChangesNothing : Prop :=
  ∀ (s : State) (i : Instr), carriesData i = true → s.regs.valid = false →
    exec i s = .next { s with responses := s.responses ++ [[0x03]] }

/-- `43_apply.md` R115: a zero-length APPLY answers `00` with no data and changes nothing, or `03`. -/
def Obligations.EmptyApplyChangesNothing : Prop :=
  encode (.apply []) = [0x02, 0x00, 0x00] ∧
  ∀ s : State,
    exec (.apply []) s = .next { s with
      responses := s.responses ++ [if s.regs.valid then [0x00] else [0x03]] }

/-- `43_apply.md` R110: one byte step. From an exhausted buffer it refills and uses byte 0 of the new block;
else it uses the byte at the offset. It is exactly APPLY with `LEN = 1`. -/
def Obligations.ApplybIsOneByteStep : Prop :=
  ∀ (s : State) (d : Byte),
    encode (.applyb d) = [0x03, d] ∧
    (s.regs.valid = false →
      exec (.applyb d) s = .next { s with responses := s.responses ++ [[0x03]] }) ∧
    (s.regs.valid = true → s.regs.off = 16 →
      exec (.applyb d) s = .next { s with
        regs := { s.regs with
          off := 1, ksb := Config.E s.regs.key s.regs.ctr, ctr := blkBE ((intBE s.regs.ctr + 1) % 2 ^ 128) }
        ghost := s.ghost.map fun g => { g with pos := g.pos + 1, nref := g.nref + 1 }
        responses := s.responses ++ [[(0x00 : Byte), d ^^^ (Config.E s.regs.key s.regs.ctr)[0]]]
        cipherCalls := s.cipherCalls ++
          [{ key := s.regs.key, block := s.regs.ctr, result := Config.E s.regs.key s.regs.ctr }] }) ∧
    (∀ h : s.regs.off.val < 16, s.regs.valid = true →
      exec (.applyb d) s = .next { s with
        regs := { s.regs with off := ⟨s.regs.off.val + 1, Nat.succ_lt_succ h⟩ }
        ghost := s.ghost.map fun g => { g with pos := g.pos + 1 }
        responses := s.responses ++ [[(0x00 : Byte), d ^^^ s.regs.ksb[s.regs.off.val]]] }) ∧
    exec (.applyb d) s = exec (.apply [d]) s

/-- `43_apply.md` R112: APPLYW is four byte steps in lane order, from any offset. The offset advances by four,
passing through at most one refill, which happens exactly from an offset of 13 or more; and it answers
what one APPLY, or four APPLYBs, of the same four bytes answer. -/
def Obligations.ApplywIsFourByteSteps : Prop :=
  ∀ (s : State) (d0 d1 d2 d3 : Byte),
    encode (.applyw d0 d1 d2 d3) = [0x04, d0, d1, d2, d3] ∧
    (s.regs.valid = false →
      exec (.applyw d0 d1 d2 d3) s = .next { s with responses := s.responses ++ [[0x03]] }) ∧
    (s.regs.valid = true →
      ∃ t, exec (.applyw d0 d1 d2 d3) s = .next t ∧
        t.script = s.script ∧
        t.responses = s.responses ++ [[(0x00 : Byte),
          d0 ^^^ upcoming Config.E s.regs 0, d1 ^^^ upcoming Config.E s.regs 1,
          d2 ^^^ upcoming Config.E s.regs 2, d3 ^^^ upcoming Config.E s.regs 3]] ∧
        (s.regs.off.val ≤ 12 →
          t.regs = { s.regs with off := t.regs.off } ∧ t.regs.off.val = s.regs.off.val + 4 ∧
          t.ghost = s.ghost.map (fun g => { g with pos := g.pos + 4 }) ∧ t.cipherCalls = s.cipherCalls) ∧
        (13 ≤ s.regs.off.val →
          t.regs = { s.regs with
            off := t.regs.off, ksb := Config.E s.regs.key s.regs.ctr
            ctr := blkBE ((intBE s.regs.ctr + 1) % 2 ^ 128) } ∧
          t.regs.off.val = s.regs.off.val + 4 - 16 ∧
          t.ghost = s.ghost.map (fun g => { g with pos := g.pos + 4, nref := g.nref + 1 }) ∧
          t.cipherCalls = s.cipherCalls ++
            [{ key := s.regs.key, block := s.regs.ctr, result := Config.E s.regs.key s.regs.ctr }]) ∧
        (∃ u, performAll [.applyb d0, .applyb d1, .applyb d2, .applyb d3] s = .next u ∧
          u.responses = s.responses ++ [
            [(0x00 : Byte), d0 ^^^ upcoming Config.E s.regs 0], [0x00, d1 ^^^ upcoming Config.E s.regs 1],
            [0x00, d2 ^^^ upcoming Config.E s.regs 2], [0x00, d3 ^^^ upcoming Config.E s.regs 3]] ∧
          u.regs = t.regs ∧ u.ghost = t.ghost ∧ u.cipherCalls = t.cipherCalls)) ∧
    exec (.applyw d0 d1 d2 d3) s = exec (.apply [d0, d1, d2, d3]) s

/-- What APPLY does in every constructed state, in closed form over the registers alone (`43_apply.md` R114;
`41_keystream_buffer.md` R96): each output byte, each register after, the ghost variables, and the
calls of `E` in order. R114 bounds `DATA` by 65535 bytes; for longer data, which no frame carries, the
statement rests on log entry 13. -/
def Obligations.ApplyComputesItsStream : Prop :=
  ∀ (s : State) (data : List Byte), s.regs.valid = true →
    ∃ t, exec (.apply data) s = .next t ∧
      t.script = s.script ∧
      t.responses = s.responses ++ [0x00 :: xorStream data (upcoming Config.E s.regs)] ∧
      AdvancedBy Config.E data.length s.regs t.regs ∧
      t.ghost = s.ghost.map (fun g =>
        { g with pos := g.pos + data.length, nref := g.nref + refillsFor s.regs data.length }) ∧
      t.cipherCalls = s.cipherCalls ++
        callsFrom Config.E s.regs.key (intBE s.regs.ctr) (refillsFor s.regs data.length)

/-- `43_apply.md` R116: `o[i] = d[i] XOR keystream[p + i]` for each of the three apply commands, `POS` becomes
`p + n`, and the refills counted are those R114 gives. The premise is the invariant of the model. -/
def Obligations.OutputContract : Prop :=
  ∀ (s : State) (g : Ghost) (i : Instr), Inv s → s.ghost = some g → carriesData i = true →
    ∃ t, exec i s = .next t ∧
      t.responses = s.responses ++
        [0x00 :: xorStream (payload i) (fun j => keystream Config.E s.regs.key g.c0 (g.pos + j))] ∧
      t.ghost = some { g with
        pos := g.pos + (payload i).length
        nref := g.nref + (blocksFor (g.pos + (payload i).length) - blocksFor g.pos) }

/-- `41_keystream_buffer.md` R98, last sentences: the keystream repeats with period 2^132 bytes, and within
fewer than 2^128 blocks no counter value is used twice. -/
def Obligations.KeystreamPeriod : Prop :=
  (∀ (E : Cipher) (k : List Byte) (c0 : Block) (j : Nat),
    keystream E k c0 (j + 2 ^ 132) = keystream E k c0 j) ∧
  (∀ (c0 : Block) (m n : Nat), m < 2 ^ 128 → n < 2 ^ 128 →
    counterBlock (intBE c0) m = counterBlock (intBE c0) n → m = n)

/-- `43_apply.md` R117 and `20_memory.md` R45: a byte sequence cut into any number of apply commands of any kind
gives, in any constructed state, the output bytes and the final state of one APPLY of the whole. R117
bounds the whole by 65535 bytes; beyond that the one APPLY rests on log entry 13. -/
def Obligations.ContinuityOverAnySplit : Prop :=
  ∀ (s : State) (cmds : List Instr), s.regs.valid = true → (∀ i ∈ cmds, carriesData i = true) →
    ∃ t rs u, performAll cmds s = .next t ∧
      t.responses = s.responses ++ rs ∧ rs.length = cmds.length ∧
      exec (.apply (cmds.flatMap payload)) s = .next u ∧
      u.responses = s.responses ++ [0x00 :: responseData rs] ∧
      u.regs = t.regs ∧ u.ghost = t.ghost ∧ u.cipherCalls = t.cipherCalls ∧ u.script = t.script

/-- `43_apply.md` R118: two engines constructed with the same key and counter, whatever each held before, that
have consumed the same number of bytes in any framing: what the first answers for the bytes `x`, the
second turns back into `x`, whatever the framing on either side. -/
def Obligations.ApplyIsAnInvolution : Prop :=
  ∀ (s₁ s₂ : State) (k c : List Byte) (before₁ before₂ enc dec : List Instr),
    isGoodInit (.init k c) = true →
    (∀ i ∈ before₁ ++ before₂ ++ enc ++ dec, carriesData i = true) →
    (before₁.flatMap payload).length = (before₂.flatMap payload).length →
    ∃ a₁ b₁ a₂ b₂ rs₁ rs₂,
      performAll (.init k c :: before₁) s₁ = .next a₁ ∧ performAll enc a₁ = .next b₁ ∧
      b₁.responses = a₁.responses ++ rs₁ ∧
      performAll (.init k c :: before₂) s₂ = .next a₂ ∧ performAll dec a₂ = .next b₂ ∧
      b₂.responses = a₂.responses ++ rs₂ ∧
      (dec.flatMap payload = responseData rs₁ → responseData rs₂ = enc.flatMap payload)

/-- `43_apply.md` R119: the state after an apply command does not depend on the data's values; an all-zero input
returns the keystream itself; two inputs of one length from one state have outputs that differ
exactly where the inputs do. -/
def Obligations.StateIndependentOfData : Prop :=
  (∀ (s t t' : State) (i i' : Instr), carriesData i = true → carriesData i' = true →
    (payload i).length = (payload i').length → exec i s = .next t → exec i' s = .next t' →
    t.regs = t'.regs ∧ t.ghost = t'.ghost ∧ t.cipherCalls = t'.cipherCalls) ∧
  (∀ (s : State) (g : Ghost) (n : Nat), Inv s → s.ghost = some g →
    ∃ t, exec (.apply (List.replicate n 0)) s = .next t ∧
      t.responses = s.responses ++
        [0x00 :: (List.range n).map fun j => keystream Config.E s.regs.key g.c0 (g.pos + j)]) ∧
  (∀ (s : State) (i i' : Instr), carriesData i = true → carriesData i' = true →
    (payload i).length = (payload i').length → s.regs.valid = true →
    ∃ t t' o o', exec i s = .next t ∧ exec i' s = .next t' ∧
      t.responses = s.responses ++ [0x00 :: o] ∧ t'.responses = s.responses ++ [0x00 :: o'] ∧
      List.zipWith (· ^^^ ·) o o' = List.zipWith (· ^^^ ·) (payload i) (payload i'))

/-- What an apply command leaves unchanged (`10_state.md` R37, R20, R24): `KEY` and `VALID` always; `CTR`, `KSB`
and the record of calls unless its bytes run past the block in the buffer; every register when it
carries no byte or is refused; the host's script. -/
def Obligations.ApplyFrame : Prop :=
  ∀ (s t : State) (i : Instr), carriesData i = true → exec i s = .next t →
    t.regs.key = s.regs.key ∧ t.regs.valid = s.regs.valid ∧ t.script = s.script ∧
    (s.regs.off.val + (payload i).length ≤ 16 →
      t.regs.ctr = s.regs.ctr ∧ t.regs.ksb = s.regs.ksb ∧ t.cipherCalls = s.cipherCalls) ∧
    (payload i = [] ∨ s.regs.valid = false →
      t.regs = s.regs ∧ t.ghost = s.ghost ∧ t.cipherCalls = s.cipherCalls)

/-- `30_encoding.md` R76 and R73: `apply(input)` of any length is the legal APPLY commands for its consecutive
chunks, one only when the input fits, and their response data concatenated is what the input gives as
one stream. -/
def Obligations.ApiApplyOfAnyLength : Prop :=
  ∀ (s : State) (input : List Byte), s.regs.valid = true →
    (apiApply input).flatMap payload = input ∧
    (∀ i ∈ apiApply input, ∃ data, i = .apply data ∧ i.wellFormed = true) ∧
    (input.length ≤ 65535 → apiApply input = [.apply input]) ∧
    ∃ t rs, performAll (apiApply input) s = .next t ∧ t.responses = s.responses ++ rs ∧
      responseData rs = xorStream input (upcoming Config.E s.regs) ∧
      AdvancedBy Config.E input.length s.regs t.regs

/-! ## The block-cipher port -/

/-- `20_memory.md` R48: over the life of an instance the calls are those of its consecutive counter blocks, after
`n` bytes `ceil(n/16)` of them; INIT, CLEAR, reset, an empty APPLY, an illegal frame and a refused
command make none. -/
def Obligations.CipherCallsOfAnInstance : Prop :=
  (∀ (s : State) (k : List Byte) (c0 : Block) (cmds : List Instr),
    k.length = Config.KEYLEN → (∀ i ∈ cmds, carriesData i = true) →
    ∃ t, performAll (.init k c0.toList :: cmds) s = .next t ∧
      t.cipherCalls = s.cipherCalls ++
        callsFrom Config.E k (intBE c0) (blocksFor (cmds.flatMap payload).length)) ∧
  (∀ (s t : State) (i : Instr), exec i s = .next t →
    (carriesData i = false ∨ payload i = [] ∨ s.regs.valid = false) → t.cipherCalls = s.cipherCalls) ∧
  (∀ (s t : State), step s = .next t →
    (∀ f i, s.script.head? = some (.frame f) → decode f ≠ .ok i) → t.cipherCalls = s.cipherCalls)

/-- Every call on the port carries a key of `KEYLEN` bytes (`20_memory.md` R47), if the invariant holds before the
step: the calls a step adds are answered by `E` on the key and block they carry. -/
def Obligations.PortCallsCarryTheKey : Prop :=
  ∀ s t : State, Inv s → step s = .next t →
    ∃ calls, t.cipherCalls = s.cipherCalls ++ calls ∧
      ∀ c ∈ calls, c.key = s.regs.key ∧ c.key.length = Config.KEYLEN ∧ c.result = Config.E c.key c.block

/-! ## Invariants and whole-machine rules -/

/-- The invariant holds right after reset (`10_state.md` section 6). -/
def Obligations.InvariantHoldsAtReset : Prop := Inv State.reset

/-- Every step keeps the invariant, from every state that meets it (`10_state.md` section 6, R31 to R35). -/
def Obligations.StepKeepsInvariant : Prop :=
  ∀ s t : State, Inv s → step s = .next t → Inv t

/-- `10_state.md` R31 to R35: they hold after any number of steps of any sequence of frames and resets from
reset. -/
def Obligations.ReachableStatesMeetTheInvariants : Prop :=
  ∀ (script : List HostEvent) (n : Nat), ∃ t,
    Sys2Proof.core.run n { State.reset with script := script } = .next t ∧
    t.regs.off.val ≤ 16 ∧
    (t.regs.valid = false →
      t.regs.key = List.replicate Config.KEYLEN 0 ∧ t.regs.ctr = zeroBlock ∧ t.regs.ksb = zeroBlock ∧ t.regs.off = 16) ∧
    (t.regs.valid = false → ∀ i u, exec i t = .next u → isGoodInit i = false → u.regs = t.regs) ∧
    (t.regs.valid = true → ∃ g, t.ghost = some g ∧
      g.nref = (g.pos + 15) / 16 ∧
      t.regs.off.val = (if g.pos % 16 = 0 then 16 else g.pos % 16) ∧
      intBE t.regs.ctr = (intBE g.c0 + g.nref) % 2 ^ 128 ∧
      t.regs.ksb =
        if g.nref = 0 then zeroBlock
        else Config.E t.regs.key (blkBE ((intBE g.c0 + g.nref - 1) % 2 ^ 128)))

/-- `10_state.md` R25 and R26: what a command does to the registers and what it answers depend on the registers
and the command alone, never on the ghost variables, the last response or any other field. -/
def Obligations.OnlyTheRegistersMatter : Prop :=
  ∀ (s s' : State) (i : Instr), s.regs = s'.regs →
    ∃ t t' r, exec i s = .next t ∧ exec i s' = .next t' ∧
      t.regs = t'.regs ∧ t.responses = s.responses ++ [r] ∧ t'.responses = s'.responses ++ [r]

/-- `70_reset_and_hazards.md` R181, `00_scope.md` R12: two engines constructed with the same key and the same
initial counter, whatever each held before, answer any further events alike and stay in equal
registers. -/
def Obligations.SameKeyAndCounterSameAnswers : Prop :=
  ∀ (s s' : State) (k c : List Byte) (events : List HostEvent) (n : Nat),
    isGoodInit (.init k c) = true →
    ∃ a a' t t' rs,
      exec (.init k c) { s with script := events } = .next a ∧
      exec (.init k c) { s' with script := events } = .next a' ∧
      Sys2Proof.core.run n a = .next t ∧ Sys2Proof.core.run n a' = .next t' ∧
      t.regs = t'.regs ∧ t.script = t'.script ∧
      t.responses = a.responses ++ rs ∧ t'.responses = a'.responses ++ rs

/-! ## Two false variants to refute (`95_test_vectors.md` section 5, items 9 and 10) -/

/-- False: an eager refill, which after INIT and 16 data bytes would have advanced the counter twice. -/
def Obligations.EagerRefillAfterSixteenBytes : Prop :=
  ∀ (s t : State) (k : List Byte) (c0 : Block) (data : List Byte),
    k.length = Config.KEYLEN → data.length = 16 →
    performAll [.init k c0.toList, .apply data] s = .next t →
    intBE t.regs.ctr = (intBE c0 + 2) % 2 ^ 128

/-- False: a first-call flag that an empty APPLY uses up, so that the next byte would find no refill to do. -/
def Obligations.EmptyApplyUsesUpTheFirstCall : Prop :=
  ∀ (s t : State) (k : List Byte) (c0 : Block) (b : Byte),
    k.length = Config.KEYLEN →
    performAll [.init k c0.toList, .apply [], .applyb b] s = .next t →
    t.cipherCalls = s.cipherCalls
end

