-- ==== Sys2Proof/Laws/Decode.lean ====
section
/-! SUPPORT. The inversion lemma of the decoder: what a frame is, given the command it decodes to. -/

namespace Sys2Proof

/-- A frame the decoder accepts has one of the five forms of `30_encoding.md` R69. -/
theorem decode_ok_cases {f : Frame} {i : Instr} (h : decode f = .ok i) :
    (∃ a b body, f = 0x01 :: a :: b :: body ∧ body.length = a.toNat + b.toNat ∧
      i = .init (body.take a.toNat) (body.drop a.toNat)) ∨
    (∃ a b data, f = 0x02 :: a :: b :: data ∧ data.length = be16 a b ∧ i = .apply data) ∨
    (∃ d, f = [0x03, d] ∧ i = .applyb d) ∨
    (∃ d0 d1 d2 d3, f = [0x04, d0, d1, d2, d3] ∧ i = .applyw d0 d1 d2 d3) ∨
    (f = [0x05] ∧ i = .clear) := by
  unfold decode at h
  split at h
  · cases h
  split at h
  · subst_vars; unfold decodeInit at h
    split at h
    · split at h
      · cases h; exact .inl ⟨_, _, _, rfl, ‹_›, rfl⟩
      · cases h
    · cases h
  split at h
  · subst_vars; unfold decodeApply at h
    split at h
    · split at h
      · cases h; exact .inr (.inl ⟨_, _, _, rfl, ‹_›, rfl⟩)
      · cases h
    · cases h
  split at h
  · subst_vars; unfold decodeApplyb at h
    split at h <;> cases h
    exact .inr (.inr (.inl ⟨_, rfl, rfl⟩))
  split at h
  · subst_vars; unfold decodeApplyw at h
    split at h <;> cases h
    exact .inr (.inr (.inr (.inl ⟨_, _, _, _, rfl, rfl⟩)))
  split at h
  · subst_vars; unfold decodeClear at h
    split at h <;> cases h
    exact .inr (.inr (.inr (.inr ⟨rfl, rfl⟩)))
  · cases h

/-- A 16-bit field gives its two bytes back (`00_scope.md` R14). -/
theorem be16_of_bytes {n : Nat} (h : n ≤ 65535) : be16 (be16Hi n) (be16Lo n) = n := by
  simp [be16, be16Hi, be16Lo]; omega

end Sys2Proof
end

