-- ==== Sys2Proof/Laws/State.lean ====
section
/-! SUPPORT. One lemma per field per named update of State, true by `rfl` and tagged for `simp`, so that no later proof
unfolds a record update. -/

namespace Sys2Proof.Machine

open Sys2Proof

variable (E : Cipher) (n : Nat) (st : Status) (d : List Byte) (e : HostEvent) (s : State)

/-! ## `returnResponse`, `respondOk`, `raise`, `rejectFrame` -/

@[simp] theorem returnResponse_regs : (returnResponse st d s).regs = s.regs := rfl
@[simp] theorem returnResponse_ghost : (returnResponse st d s).ghost = s.ghost := rfl
@[simp] theorem returnResponse_script : (returnResponse st d s).script = s.script := rfl
@[simp] theorem returnResponse_cipherCalls : (returnResponse st d s).cipherCalls = s.cipherCalls := rfl
@[simp] theorem returnResponse_responses :
    (returnResponse st d s).responses = s.responses ++ [statusCode st :: d] := rfl

theorem respondOk_eq : respondOk d s = { s with responses := s.responses ++ [0x00 :: d] } := rfl

theorem raise_eq : raise st s = { s with responses := s.responses ++ [[statusCode st]] } := rfl

theorem rejectFrame_eq : rejectFrame s = { s with responses := s.responses ++ [[0x04]] } := rfl

/-! ## `unconstruct` -/

@[simp] theorem unconstruct_regs : (unconstruct n s).regs = Registers.unconstructed n := rfl
@[simp] theorem unconstruct_ghost : (unconstruct n s).ghost = none := rfl
@[simp] theorem unconstruct_script : (unconstruct n s).script = s.script := rfl
@[simp] theorem unconstruct_responses : (unconstruct n s).responses = s.responses := rfl
@[simp] theorem unconstruct_cipherCalls : (unconstruct n s).cipherCalls = s.cipherCalls := rfl

@[simp] theorem unconstructed_key : (Registers.unconstructed n).key = zeroBytes n := rfl
@[simp] theorem unconstructed_ctr : (Registers.unconstructed n).ctr = zeroBlock := rfl
@[simp] theorem unconstructed_ksb : (Registers.unconstructed n).ksb = zeroBlock := rfl
@[simp] theorem unconstructed_off : (Registers.unconstructed n).off = 16 := rfl
@[simp] theorem unconstructed_valid : (Registers.unconstructed n).valid = false := rfl

@[simp] theorem zeroBytes_length : (zeroBytes n).length = n := List.length_replicate

/-! ## `refill` -/

@[simp] theorem refill_key : (refill E s).regs.key = s.regs.key := rfl
@[simp] theorem refill_valid : (refill E s).regs.valid = s.regs.valid := rfl
@[simp] theorem refill_off : (refill E s).regs.off = 0 := rfl
@[simp] theorem refill_ksb : (refill E s).regs.ksb = E s.regs.key s.regs.ctr := rfl
@[simp] theorem refill_ctr : (refill E s).regs.ctr = inc128 s.regs.ctr := rfl
@[simp] theorem refill_ghost : (refill E s).ghost = s.ghost.map Ghost.countRefill := rfl
@[simp] theorem refill_script : (refill E s).script = s.script := rfl
@[simp] theorem refill_responses : (refill E s).responses = s.responses := rfl
@[simp] theorem refill_cipherCalls : (refill E s).cipherCalls =
    s.cipherCalls ++ [{ key := s.regs.key, block := s.regs.ctr, result := E s.regs.key s.regs.ctr }] := rfl

/-! ## `take` -/

section
variable (h : s.regs.off.val < 16)
@[simp] theorem take_byte : (take s h).1 = s.regs.ksb[s.regs.off.val] := rfl
@[simp] theorem take_key : (take s h).2.regs.key = s.regs.key := rfl
@[simp] theorem take_ctr : (take s h).2.regs.ctr = s.regs.ctr := rfl
@[simp] theorem take_ksb : (take s h).2.regs.ksb = s.regs.ksb := rfl
@[simp] theorem take_valid : (take s h).2.regs.valid = s.regs.valid := rfl
@[simp] theorem take_off : (take s h).2.regs.off.val = s.regs.off.val + 1 := rfl
@[simp] theorem take_ghost : (take s h).2.ghost = s.ghost.map Ghost.countTake := rfl
@[simp] theorem take_script : (take s h).2.script = s.script := rfl
@[simp] theorem take_responses : (take s h).2.responses = s.responses := rfl
@[simp] theorem take_cipherCalls : (take s h).2.cipherCalls = s.cipherCalls := rfl
end

/-! ## The host's events -/

@[simp] theorem issueNext_script : (issueNext e s).script = e :: s.script := rfl
@[simp] theorem issueNext_regs : (issueNext e s).regs = s.regs := rfl

/-- Issuing an event and taking the next one gives it back, and the state as it was. -/
@[simp] theorem nextEvent_issueNext : nextEvent (issueNext e s) = some (e, s) := rfl

/-- The step after `withFetchWord` performs exactly the frame of the word. -/
theorem step_withFetchWord (nbits w : Nat) :
    step (s.withFetchWord nbits w) = performFrame (tableFrame nbits w) s := rfl

end Sys2Proof.Machine
end

