-- ==== Sys2Proof/Laws/Ops.lean ====
section
/-! SUPPORT. One lemma for each shared operation that says everything it can do; later proofs cite these and do not unfold
the operations again. The engine has no memory (`20_memory.md` R40), so there is no memory form to keep. -/

namespace Sys2Proof.Machine

open Sys2Proof

/-! ## INC128 -/

/-- A byte that wraps carries: the loop goes on with the byte to its left. -/
theorem inc128From_wrap {n : Nat} (h : n + 1 ≤ 16) (b : Block) (hw : b[n] + 1 = 0) :
    inc128From (n + 1) h b = inc128From n (Nat.le_of_succ_le h) (b.set n 0 h) := by
  rw [inc128From]; simp only [Vector.getElem_set_self, hw, if_true]

/-- A byte that does not wrap ends the loop. -/
theorem inc128From_stop {n : Nat} (h : n + 1 ≤ 16) (b : Block) (hw : b[n] + 1 ≠ 0) :
    inc128From (n + 1) h b = b.set n (b[n] + 1) h := by
  rw [inc128From]; simp only [Vector.getElem_set_self, if_neg hw]

/-! ## The byte form of a block -/

/-- The value of the bytes of `l`, the first the LEAST significant. -/
def leValue : List Byte → Nat
  | [] => 0
  | x :: xs => x.toNat + 256 * leValue xs

theorem foldl_leValue (l : List Byte) (a : Nat) :
    l.foldl (fun acc x => acc * 256 + x.toNat) a = a * 256 ^ l.length + leValue l.reverse := by
  induction l using List.reverseRecOn with
  | nil => simp [leValue]
  | append_singleton l x ih => simp [ih, leValue]; ring

theorem intBE_eq_leValue (b : Block) : intBE b = leValue b.toList.reverse := by
  rw [intBE, foldl_leValue]; simp

theorem leValue_lt (l : List Byte) : leValue l < 256 ^ l.length := by
  induction l with
  | nil => simp [leValue]
  | cons x xs ih => have := x.isLt; simp only [leValue, List.length_cons, pow_succ]; omega

theorem leValue_digit (l : List Byte) (i : Nat) (h : i < l.length) :
    leValue l / 256 ^ i % 256 = l[i].toNat := by
  induction l generalizing i with
  | nil => simp at h
  | cons x xs ih =>
    have := x.isLt
    cases i with
    | zero => simp [leValue]; omega
    | succ i =>
      have shift : leValue (x :: xs) / 256 ^ (i + 1) = leValue xs / 256 ^ i := by
        rw [pow_succ', ← Nat.div_div_eq_div_mul]; congr 1; simp [leValue]; omega
      rw [shift, ih i (by simpa using h)]; simp

/-- Byte `i` of a block is digit `15 - i` of its value. -/
theorem intBE_digit (b : Block) (i : Nat) (h : i < 16) : intBE b / 256 ^ (15 - i) % 256 = b[i].toNat := by
  rw [intBE_eq_leValue, leValue_digit _ _ (by simp; omega)]
  simp; congr 2; omega

theorem blkBE_getElem (v i : Nat) (h : i < 16) : (blkBE v)[i] = BitVec.ofNat 8 (v / 256 ^ (15 - i)) := by
  simp [blkBE]

@[simp] theorem blockOfBytes_toList (d : Block) : blockOfBytes d.toList = d := by
  ext i hi; simp [blockOfBytes]

/-! ## The keystream-buffer manager -/

theorem exhausted_iff (r : Registers) : exhausted r = true ↔ r.off.val = 16 := by
  simp [exhausted, Fin.ext_iff]

theorem refillOnDemand_exhausted (E : Cipher) {s : State} (h : s.regs.off.val = 16) :
    refillOnDemand E s = refill E s := by
  simp [refillOnDemand, (exhausted_iff _).2 h]

theorem refillOnDemand_buffered (E : Cipher) {s : State} (h : s.regs.off.val < 16) : refillOnDemand E s = s := by
  have : ¬ exhausted s.regs = true := by rw [exhausted_iff]; omega
  simp [refillOnDemand, this]

/-- TAKE of equal states is equal, whatever proof of its precondition it is given. -/
theorem take_congr {s t : State} (ht : t.regs.off.val < 16) (h : t = s) :
    take t ht = take s (h ▸ ht) := by subst h; rfl

/-- A keystream byte from an exhausted buffer: one refill, then byte 0 of the new block. -/
theorem nextKeystreamByte_exhausted (E : Cipher) {s : State} (h : s.regs.off.val = 16) :
    nextKeystreamByte E s = ((E s.regs.key s.regs.ctr)[0],
      { s with
        regs := { s.regs with off := 1, ksb := E s.regs.key s.regs.ctr, ctr := inc128 s.regs.ctr }
        ghost := s.ghost.map fun g => { g with pos := g.pos + 1, nref := g.nref + 1 }
        cipherCalls := s.cipherCalls ++
          [{ key := s.regs.key, block := s.regs.ctr, result := E s.regs.key s.regs.ctr }] }) := by
  rw [nextKeystreamByte, take_congr _ (refillOnDemand_exhausted E h)]
  simp [take, refill, Option.map_map, Function.comp_def, Ghost.countTake, Ghost.countRefill]

/-- A keystream byte from a buffer that holds one: TAKE alone. -/
theorem nextKeystreamByte_buffered (E : Cipher) {s : State} (h : s.regs.off.val < 16) :
    nextKeystreamByte E s = take s h := by
  rw [nextKeystreamByte, take_congr _ (refillOnDemand_buffered E h)]

/-! ## Byte steps -/

theorem byteStep_eq (E : Cipher) (b : Byte) (s : State) :
    byteStep E b s = (b ^^^ (nextKeystreamByte E s).1, (nextKeystreamByte E s).2) := rfl

theorem byteSteps_length (E : Cipher) (data : List Byte) (s : State) :
    (byteSteps E data s).1.length = data.length := by
  induction data generalizing s with
  | nil => rfl
  | cons b bs ih => simp [byteSteps, ih]

/-- Byte steps over a concatenation are the byte steps over its parts, one after the other. -/
theorem byteSteps_append (E : Cipher) (x y : List Byte) (s : State) :
    byteSteps E (x ++ y) s =
      ((byteSteps E x s).1 ++ (byteSteps E y (byteSteps E x s).2).1, (byteSteps E y (byteSteps E x s).2).2) := by
  induction x generalizing s with
  | nil => rfl
  | cons b bs ih => simp [byteSteps, ih]

theorem applyByte_eq_applyStream (E : Cipher) (d : Byte) (s : State) :
    applyByte E d s = applyStream E [d] s := by
  simp [applyByte, applyStream, byteSteps]

theorem applyWord_eq_applyStream (E : Cipher) (d0 d1 d2 d3 : Byte) (s : State) :
    applyWord E (wordOfLanes d0 d1 d2 d3) s = applyStream E [d0, d1, d2, d3] s := by
  simp [applyWord, applyStream, byteSteps, byteStep, nextKeystreamWord, xorw, wordOfLanes]

theorem applyStream_unconstructed (E : Cipher) (data : List Byte) {s : State} (h : s.regs.valid = false) :
    applyStream E data s = { s with responses := s.responses ++ [[0x03]] } := by
  simp [applyStream, constructed, h, raise_eq, statusCode]

theorem applyStream_constructed (E : Cipher) (data : List Byte) {s : State} (h : s.regs.valid = true) :
    applyStream E data s = respondOk (byteSteps E data s).1 (byteSteps E data s).2 := by
  simp [applyStream, constructed, h]

/-! ## INIT -/

theorem initialise_wrongKey {n : Nat} {k : List Byte} (c : List Byte) (s : State) (h : k.length ≠ n) :
    initialise n k c s =
      { s with regs := Registers.unconstructed n, ghost := none, responses := s.responses ++ [[0x01]] } := by
  simp [initialise, h]; rfl

theorem initialise_wrongCounter {n : Nat} {k c : List Byte} (s : State) (h : k.length = n) (hc : c.length ≠ 16) :
    initialise n k c s =
      { s with regs := Registers.unconstructed n, ghost := none, responses := s.responses ++ [[0x02]] } := by
  simp [initialise, h, hc]; rfl

theorem initialise_loads {n : Nat} {k : List Byte} (d : Block) (s : State) (h : k.length = n) :
    initialise n k d.toList s =
      { s with
        regs := Registers.fresh k d
        ghost := some { c0 := d, pos := 0, nref := 0 }
        responses := s.responses ++ [[0x00]] } := by
  simp [initialise, h]; rfl

end Sys2Proof.Machine
end

