-- ==== Sys2Proof/Laws/PerInstr.lean ====
section
/-! SUPPORT. Statements about every command as syntax, one lemma per constructor. -/

namespace Sys2Proof.Laws

open Sys2Proof

/-- A command's frame begins with its opcode and has the length of `30_encoding.md` R66. -/
def EncodeShape.Statement (i : Instr) : Prop :=
  (encode i).head? = some (opcode i) ∧ (encode i).length = frameLength i

theorem EncodeShape.init (keyb ictr : List Byte) : EncodeShape.Statement (.init keyb ictr) := by
  refine ⟨rfl, ?_⟩; simp [encode, encodeOperands, frameLength]; omega

theorem EncodeShape.apply (data : List Byte) : EncodeShape.Statement (.apply data) := by
  refine ⟨rfl, ?_⟩; simp [encode, encodeOperands, frameLength]; omega

theorem EncodeShape.applyb (d0 : Byte) : EncodeShape.Statement (.applyb d0) := ⟨rfl, rfl⟩

theorem EncodeShape.applyw (d0 d1 d2 d3 : Byte) : EncodeShape.Statement (.applyw d0 d1 d2 d3) := ⟨rfl, rfl⟩

theorem EncodeShape.clear : EncodeShape.Statement .clear := ⟨rfl, rfl⟩

end Sys2Proof.Laws
end

