-- ==== Sys2Proof/Laws/Step.lean ====
section
/-! SUPPORT. What a command and a step can do, said once: the inversion lemmas every whole-machine proof starts from. -/

namespace Sys2Proof.Machine

open Sys2Proof

/-- The three apply commands are one operation on their data bytes (`43_apply.md`, opening paragraph). -/
theorem exec_of_carriesData {i : Instr} (h : carriesData i = true) (s : State) :
    exec i s = .next (applyStream Config.E (payload i) s) := by
  cases i with
  | init _ _ => cases h
  | apply _ => rfl
  | applyb d => simp [exec, execApplyb, payload, applyByte_eq_applyStream]
  | applyw d0 d1 d2 d3 => simp [exec, execApplyw, payload, applyWord_eq_applyStream]
  | clear => cases h

/-- Everything a command can do: load an instance, fail on the key or on the counter, clear, refuse data, or
take its bytes through the datapath. -/
theorem exec_cases (i : Instr) (s : State) :
    (∃ k d, i = .init k (Vector.toList d) ∧ k.length = Config.KEYLEN ∧
      exec i s = .next { s with
        regs := Registers.fresh k d
        ghost := some { c0 := d, pos := 0, nref := 0 }
        responses := s.responses ++ [[0x00]] }) ∨
    (∃ k c, i = .init k c ∧ k.length ≠ Config.KEYLEN ∧
      exec i s = .next { s with
        regs := Registers.unconstructed Config.KEYLEN, ghost := none, responses := s.responses ++ [[0x01]] }) ∨
    (∃ k c, i = .init k c ∧ k.length = Config.KEYLEN ∧ c.length ≠ 16 ∧
      exec i s = .next { s with
        regs := Registers.unconstructed Config.KEYLEN, ghost := none, responses := s.responses ++ [[0x02]] }) ∨
    (i = .clear ∧
      exec i s = .next { s with
        regs := Registers.unconstructed Config.KEYLEN, ghost := none, responses := s.responses ++ [[0x00]] }) ∨
    (carriesData i = true ∧ s.regs.valid = false ∧
      exec i s = .next { s with responses := s.responses ++ [[0x03]] }) ∨
    (carriesData i = true ∧ s.regs.valid = true ∧
      exec i s = .next (respondOk (byteSteps Config.E (payload i) s).1 (byteSteps Config.E (payload i) s).2)) := by
  by_cases hc : carriesData i = true
  · rw [exec_of_carriesData hc]
    cases hv : s.regs.valid
    · exact .inr (.inr (.inr (.inr (.inl ⟨hc, rfl, by rw [applyStream_unconstructed _ _ hv]⟩))))
    · exact .inr (.inr (.inr (.inr (.inr ⟨hc, rfl, by rw [applyStream_constructed _ _ hv]⟩))))
  · cases i with
    | init k c =>
      by_cases hk : k.length = Config.KEYLEN
      · by_cases hl : c.length = 16
        · exact .inl ⟨k, ⟨⟨c⟩, by simpa using hl⟩, rfl, hk, congrArg Host.Outcome.next (initialise_loads ⟨⟨c⟩, by simpa using hl⟩ s hk)⟩
        · exact .inr (.inr (.inl ⟨k, c, rfl, hk, hl, congrArg Host.Outcome.next (initialise_wrongCounter s hk hl)⟩))
      · exact .inr (.inl ⟨k, c, rfl, hk, congrArg Host.Outcome.next (initialise_wrongKey c s hk)⟩)
    | clear => exact .inr (.inr (.inr (.inl ⟨rfl, rfl⟩)))
    | _ => exact absurd rfl hc

/-- Everything a step can do: nothing, a reset, the answer to an illegal frame, or a command. -/
theorem step_cases {s t : State} (h : step s = .next t) :
    (s.script = [] ∧ t = s) ∨
    (∃ rest, s.script = .reset :: rest ∧
      t = { s with script := rest, regs := Registers.unconstructed Config.KEYLEN, ghost := none }) ∨
    (∃ f e rest, s.script = .frame f :: rest ∧ decode f = .error e ∧
      t = { s with script := rest, responses := s.responses ++ [[0x04]] }) ∨
    (∃ f i rest, s.script = .frame f :: rest ∧ decode f = .ok i ∧ exec i { s with script := rest } = .next t) := by
  unfold step nextEvent at h
  rcases hs : s.script with _ | ⟨_ | _, rest⟩ <;> rw [hs] at h
  · cases h; exact .inl ⟨rfl, rfl⟩
  · next f =>
    simp only [performFrame] at h
    cases hd : decode f with
    | error e => rw [hd] at h; cases h; exact .inr (.inr (.inl ⟨f, e, rest, rfl, hd, rfl⟩))
    | ok i => rw [hd] at h; exact .inr (.inr (.inr ⟨f, i, rest, rfl, hd, h⟩))
  · cases h; exact .inr (.inl ⟨rest, rfl, rfl⟩)

end Sys2Proof.Machine
end

