-- ==== Sys2Proof/Tests/Slice0.lean ====
section
/-! SUPPORT. The model's own tests of well-formedness and decoding, from frames written out from the format tables of
`30_encoding.md` and `95_test_vectors.md` section 3.6; and, for each statement with hypotheses, a concrete
state and operands that meet them. The tests of the commands are in `Sys2Proof/Tests/Vectors.lean`. -/

namespace Sys2Proof.Tests

open Sys2Proof Sys2Proof.Machine

/-! ## WellFormed refuses each ill-formed operand -/

theorem test_wf_refuses_long_key : (Instr.init (List.replicate 256 0) []).wellFormed = false := by
  simp only [Instr.wellFormed, List.length_replicate]; decide

theorem test_wf_refuses_long_counter : (Instr.init [] (List.replicate 256 0)).wellFormed = false := by
  simp only [Instr.wellFormed, List.length_replicate]; decide

theorem test_wf_refuses_long_data : (Instr.apply (List.replicate 65536 0)).wellFormed = false := by
  simp only [Instr.wellFormed, List.length_replicate]; decide

theorem test_wf_accepts_bounds :
    (Instr.init (List.replicate 255 0) (List.replicate 255 0)).wellFormed = true ∧
    (Instr.apply (List.replicate 65535 0)).wellFormed = true := by
  simp only [Instr.wellFormed, List.length_replicate]; decide

/-! ## The decoder -/

/-- Frames written out from the format tables (R62 to R67), every form. -/
theorem test_decode_init :
    decode [0x01, 0x02, 0x03, 0xA0, 0xA1, 0xC0, 0xC1, 0xC2] = .ok (.init [0xA0, 0xA1] [0xC0, 0xC1, 0xC2]) := by decide

theorem test_decode_apply : decode [0x02, 0x00, 0x02, 0x41, 0x42] = .ok (.apply [0x41, 0x42]) := by decide

/-- `LEN` is big-endian: `02 01 00` asks for 256 data bytes (R65, R14). -/
theorem test_decode_apply_len_is_big_endian :
    requiredLength [0x02, 0x01, 0x00] = some 259 ∧ (decode [0x02, 0x01, 0x00, 0x41]).toOption = none := by decide

theorem test_decode_applyb : decode [0x03, 0x41] = .ok (.applyb 0x41) := by decide

theorem test_decode_applyw : decode [0x04, 0x01, 0x02, 0x03, 0x04] = .ok (.applyw 0x01 0x02 0x03 0x04) := by decide

theorem test_decode_clear : decode [0x05] = .ok .clear := by decide

/-- The frames of `95_test_vectors.md` section 3.6 that answer `04`. -/
theorem test_decode_refuses :
    ([[], [0x00], [0x06], [0x7F], [0x80], [0xFF], [0x03], [0x03, 0x41, 0x42], [0x04, 1, 2, 3], [0x04, 1, 2, 3, 4, 5],
      [0x05, 0x00], [0x02], [0x02, 0x00], [0x02, 0x00, 0x02, 0x41], [0x02, 0x00, 0x00, 0x41], [0x01], [0x01, 0x10],
      [0x01, 0x10, 0x10] ++ List.replicate 31 0] : List Frame).all (fun f => (decode f).toOption.isNone) = true := by
  decide

theorem test_encode_words :
    encode (.init [0xA0] [0xC0, 0xC1]) = [0x01, 0x01, 0x02, 0xA0, 0xC0, 0xC1] ∧
    encode (.apply [0x41]) = [0x02, 0x00, 0x01, 0x41] ∧ encode (.applyb 0x41) = [0x03, 0x41] ∧
    encode (.applyw 1 2 3 4) = [0x04, 1, 2, 3, 4] ∧ encode .clear = [0x05] := by decide

/-- The five rows of `spec/opcode_table.json`, as the host numbers them; a later byte stands in higher bits. -/
theorem test_table_words :
    decodeTableWord 8 0x01 = some (.init [] []) ∧ decodeTableWord 8 0x02 = some (.apply []) ∧
    decodeTableWord 8 0x03 = some (.applyb 0) ∧ decodeTableWord 8 0x04 = some (.applyw 0 0 0 0) ∧
    decodeTableWord 8 0x05 = some .clear ∧ decodeTableWord 8 0x06 = none ∧
    decodeTableWord 16 0x4103 = some (.applyb 0x41) := by decide

/-- The step runs a table word as the first command after reset: APPLYB answers `03`, INIT of no key `01`. -/
theorem test_table_word_runs_after_reset :
    (∃ t, step (State.reset.withFetchWord 8 0x03) = .next t ∧ t.responses = [[0x03]]) ∧
    (∃ t, step (State.reset.withFetchWord 8 0x01) = .next t ∧ t.responses = [[0x01]]) :=
  ⟨⟨_, rfl, rfl⟩, ⟨_, rfl, rfl⟩⟩

/-! ## Witnesses: states and operands that meet the hypotheses of the statements -/

/-- A key of the right length. -/
def someKey : List Byte := zeroBytes Config.KEYLEN

theorem someKey_length : someKey.length = Config.KEYLEN := zeroBytes_length _

/-- An instance just constructed with `someKey` and the counter zero. -/
def freshInstance : State :=
  { State.reset with regs := Registers.fresh someKey zeroBlock, ghost := some { c0 := zeroBlock, pos := 0, nref := 0 } }

/-- That instance after one data byte: in the middle of a block, at `OFF = 1`. -/
def midInstance : State :=
  { State.reset with
    regs := { key := someKey, ctr := blkBE 1, ksb := Config.E someKey zeroBlock, off := 1, valid := true }
    ghost := some { c0 := zeroBlock, pos := 1, nref := 1 }
    cipherCalls := [{ key := someKey, block := zeroBlock, result := Config.E someKey zeroBlock }] }

/-- That instance at any offset; a state no run need reach. -/
def atOffset (o : Fin 17) : State := { midInstance with regs := { midInstance.regs with off := o } }

theorem counterBlock_zero : counterBlock (intBE zeroBlock) 0 = zeroBlock := by decide

/-- Witness of `Inv` at a block boundary (`POS mod 16 = 0`, `NREF = 0`). -/
theorem witness_Inv_fresh : Inv freshInstance where
  keyLength := someKey_length
  ghostExists := rfl
  unconstructed := by intro h; cases h
  constructed := by
    intro g hg; cases hg
    exact ⟨rfl, rfl, by decide, rfl, ⟨[], rfl⟩⟩

/-- Witness of `Inv` inside a block (`POS mod 16 = 1`, `NREF = 1`). -/
theorem witness_Inv_mid : Inv midInstance where
  keyLength := someKey_length
  ghostExists := rfl
  unconstructed := by intro h; cases h
  constructed := by
    intro g hg; cases hg
    refine ⟨rfl, rfl, by decide, ?_, ⟨[], ?_⟩⟩
    · show Config.E someKey zeroBlock = Config.E someKey (counterBlock (intBE zeroBlock) 0)
      rw [counterBlock_zero]
    · show _ = callsFrom Config.E someKey (intBE zeroBlock) 1
      simp [callsFrom, counterBlock_zero, midInstance]

theorem witness_ResetEventUnconstructs :
    (midInstance.regs.valid = true ∧ (issueNext .reset midInstance).script = .reset :: []) ∧
    isGoodInit (.init [] []) = false := ⟨⟨rfl, rfl⟩, rfl⟩

theorem witness_IdleStepChangesNothing : midInstance.script = [] := rfl

theorem witness_StepPerformsDecodedCommand :
    (issueNext (.frame [0x03, 0x41]) midInstance).script = .frame [0x03, 0x41] :: [] ∧
    decode [0x03, 0x41] = .ok (.applyb 0x41) := ⟨rfl, by decide⟩

theorem witness_DecodeOfEncodeIsTheCommand :
    (Instr.init [1] [2, 3]).wellFormed = true ∧ (Instr.apply [1, 2]).wellFormed = true := by decide

theorem witness_LegalFrameIsItsCommandsEncoding : decode [0x02, 0x00, 0x01, 0x41] = .ok (.apply [0x41]) := by decide

/-- One frame of each illegal kind, and the premise of the step clause. -/
theorem witness_IllegalFramesExactlyAndUnchanged :
    decode [] = .error .emptyFrame ∧ decode [0x06] = .error (.reservedOpcode 0x06) ∧
    decode [0x01, 0x10] = .error (.wrongLength 0x01) ∧ decode [0x02, 0x00, 0x01] = .error (.wrongLength 0x02) ∧
    decode [0x03] = .error (.wrongLength 0x03) ∧ decode [0x04, 0x00] = .error (.wrongLength 0x04) ∧
    decode [0x05, 0x00] = .error (.wrongLength 0x05) ∧
    (issueNext (.frame [0x05, 0x00]) midInstance).script = .frame [0x05, 0x00] :: [] := by
  refine ⟨by decide, by decide, by decide, by decide, by decide, by decide, by decide, rfl⟩

theorem witness_PseudoCommandsAreApply : (List.replicate 65535 (0 : Byte)).length ≤ 65535 := by
  rw [List.length_replicate]

/-- The premise of `OneResponsePerFrame` and `ErrorsExactlyWhenStated`, once for each answer of their tables. -/
theorem witness_OneResponsePerFrame_ErrorsExactlyWhenStated :
    (issueNext (.frame [0x01, 0x00, 0x00]) midInstance).script = .frame [0x01, 0x00, 0x00] :: [] ∧
    (decode [0x01, 0x00, 0x00] = .ok (.init [] []) ∧ ([] : List Byte).length ≠ Config.KEYLEN) ∧
    (isGoodInit (.init someKey zeroBlock.toList) = true ∧ isGoodInit (.init someKey []) = false) ∧
    (decode [0x03, 0x41] = .ok (.applyb 0x41) ∧ State.reset.regs.valid = false ∧ midInstance.regs.valid = true) := by
  refine ⟨rfl, ⟨by decide, (Nat.ne_of_lt Config.KEYLEN_pos)⟩, ⟨?_, ?_⟩, by decide, rfl, rfl⟩
  · simp [isGoodInit, someKey_length]
  · simp [isGoodInit]

theorem witness_StepKeepsResponsesLegal :
    ResponsesLegal { midInstance with responses := [[0x00, 0x41], [0x04]], script := [.frame []] } ∧
    ∃ t, step { midInstance with responses := [[0x00, 0x41], [0x04]], script := [.frame []] } = .next t :=
  ⟨by unfold ResponsesLegal; decide, _, rfl⟩

theorem witness_CounterWrapsSilently :
    let s : State := { freshInstance with regs := { freshInstance.regs with ctr := Vector.replicate 16 0xFF } }
    s.regs.valid = true ∧ s.regs.off = 16 ∧ s.regs.ctr = Vector.replicate 16 0xFF := ⟨rfl, rfl, rfl⟩

/-- TAKE's premise at both ends of its range. -/
theorem witness_TakeIsPostIncrementRead :
    (atOffset 0).regs.off.val < 16 ∧ (atOffset 15).regs.off.val < 16 ∧ (atOffset 15).regs.off.val = 15 := by decide

/-- `Inv` with ghost variables, at and off a boundary: `ExhaustedAtBlockBoundaries`, `OutputContract`,
`StateIndependentOfData`, `PortCallsCarryTheKey`, `StepKeepsInvariant`. -/
theorem witness_Inv_statements :
    (Inv freshInstance ∧ ∃ g, freshInstance.ghost = some g ∧ g.pos % 16 = 0) ∧
    (Inv midInstance ∧ ∃ g, midInstance.ghost = some g ∧ g.pos % 16 ≠ 0) ∧
    carriesData (.applyw 1 2 3 4) = true ∧
    (∃ t, step midInstance = .next t) :=
  ⟨⟨witness_Inv_fresh, _, rfl, rfl⟩, ⟨witness_Inv_mid, _, rfl, by decide⟩, rfl, _, rfl⟩

theorem witness_NoStaleKeystream_InitLoadsOrUnconstructs :
    (someKey.length = Config.KEYLEN ∧ (blkBE 0xfe).toList = (blkBE 0xfe).toList) ∧
    ([] : List Byte).length ≠ Config.KEYLEN ∧ (someKey.length = Config.KEYLEN ∧ ([] : List Byte).length ≠ 16) ∧
    (issueNext .reset midInstance).script = .reset :: [] ∧
    (∀ i ∈ [Instr.apply [], .applyb 1], carriesData i = true) ∧
    [Instr.apply [], .applyb 1].flatMap payload ≠ [] :=
  ⟨⟨someKey_length, rfl⟩, Nat.ne_of_lt Config.KEYLEN_pos, ⟨someKey_length, by decide⟩, rfl, by decide, by decide⟩

theorem witness_ClearEndsTheInstance :
    (∃ t u, exec .clear midInstance = .next t ∧ exec .clear t = .next u) ∧
    (∀ j ∈ [Instr.init [] [], .apply [1], .clear], isGoodInit j = false) ∧ carriesData (.applyb 1) = true := by
  refine ⟨⟨_, _, rfl, rfl⟩, ?_, rfl⟩
  have h : ([] : List Byte).length ≠ Config.KEYLEN := Nat.ne_of_lt Config.KEYLEN_pos
  intro j hj
  simp only [List.mem_cons, List.not_mem_nil, or_false] at hj
  rcases hj with rfl | rfl | rfl
  · simp [isGoodInit]
  · rfl
  · rfl

theorem witness_LifecycleTransitions :
    (∃ t, exec (.apply [1]) midInstance = .next t) ∧
    (∃ t, step (issueNext (.frame [0x06]) midInstance) = .next t ∧ decode [0x06] = .error (.reservedOpcode 0x06)) ∧
    (∃ t, step (issueNext .reset midInstance) = .next t) :=
  ⟨⟨_, rfl⟩, ⟨_, rfl, by decide⟩, _, rfl⟩

theorem witness_RefusedApplyChangesNothing :
    carriesData (.apply [1]) = true ∧ State.reset.regs.valid = false := ⟨rfl, rfl⟩

/-- APPLYB's clauses at both ends of `OFF < 16` and at `OFF = 16`, and refused. -/
theorem witness_ApplybIsOneByteStep :
    (atOffset 16).regs.valid = true ∧ (atOffset 16).regs.off = 16 ∧ (atOffset 0).regs.off.val < 16 ∧
    (atOffset 15).regs.off.val < 16 ∧ State.reset.regs.valid = false := by
  refine ⟨rfl, rfl, by decide, by decide, rfl⟩

/-- APPLYW's two clauses meet between 12 and 13: both boundaries, and both ends. -/
theorem witness_ApplywIsFourByteSteps :
    (atOffset 0).regs.valid = true ∧ (atOffset 0).regs.off.val ≤ 12 ∧ (atOffset 12).regs.off.val ≤ 12 ∧
    13 ≤ (atOffset 13).regs.off.val ∧ 13 ≤ (atOffset 16).regs.off.val ∧ State.reset.regs.valid = false := by
  refine ⟨rfl, by decide, by decide, by decide, by decide, rfl⟩

theorem witness_ApplyComputesItsStream_ApiApplyOfAnyLength :
    midInstance.regs.valid = true ∧ ([] : List Byte).length ≤ 65535 := ⟨rfl, by decide⟩

theorem witness_KeystreamPeriod :
    (7 : Nat) < 2 ^ 128 ∧ counterBlock (intBE zeroBlock) 7 = counterBlock (intBE zeroBlock) 7 := ⟨by decide, rfl⟩

theorem witness_ContinuityOverAnySplit :
    midInstance.regs.valid = true ∧
    ∀ i ∈ [Instr.applyb 1, .apply [], .applyw 2 3 4 5, .apply [6, 7]], carriesData i = true := by decide

/-- Two framings of one byte before and of five bytes after. -/
theorem witness_ApplyIsAnInvolution :
    isGoodInit (.init someKey zeroBlock.toList) = true ∧
    (∀ i ∈ [Instr.applyb 9] ++ [.apply [9]] ++ [.apply [1, 2, 3, 4, 5]] ++ [.applyw 1 2 3 4, .applyb 5], carriesData i = true) ∧
    ([Instr.applyb 9].flatMap payload).length = ([Instr.apply [9]].flatMap payload).length := by
  refine ⟨by simp [isGoodInit, someKey_length], by decide, rfl⟩

theorem witness_StateIndependentOfData_ApplyFrame :
    carriesData (.applyb 1) = true ∧ carriesData (.apply [2]) = true ∧
    (payload (.applyb 1)).length = (payload (.apply [2])).length ∧
    (∃ t, exec (.applyb 1) midInstance = .next t) ∧ (∃ t, exec (.apply [2]) midInstance = .next t) ∧
    (atOffset 15).regs.off.val + (payload (.applyb 1)).length ≤ 16 ∧ payload (.apply []) = [] :=
  ⟨rfl, rfl, rfl, ⟨_, rfl⟩, ⟨_, rfl⟩, by decide, rfl⟩

theorem witness_CipherCallsOfAnInstance :
    someKey.length = Config.KEYLEN ∧ (∀ i ∈ [Instr.apply [1, 2]], carriesData i = true) ∧
    (∃ t, exec .clear midInstance = .next t ∧ carriesData .clear = false) ∧
    (∃ t, step (issueNext .reset midInstance) = .next t ∧
      ∀ f i, (issueNext .reset midInstance).script.head? = some (.frame f) → decode f ≠ .ok i) := by
  refine ⟨someKey_length, by decide, ⟨_, rfl, rfl⟩, _, rfl, ?_⟩
  intro f i h; cases h

theorem witness_ReachableStatesMeetTheInvariants :
    ∃ t, Sys2Proof.core.run 2 { State.reset with script := [.frame [0x05], .reset] } = .next t ∧ t.regs.valid = false :=
  ⟨_, rfl, rfl⟩

/-- Two states with equal registers that differ elsewhere, and a good INIT. -/
theorem witness_OnlyTheRegistersMatter_SameKeyAndCounterSameAnswers :
    midInstance.regs = { midInstance with ghost := none, responses := [[0x04]] }.regs ∧
    isGoodInit (.init someKey zeroBlock.toList) = true := ⟨rfl, by simp [isGoodInit, someKey_length]⟩

/-- The hypotheses of the two false variants are met, so that refuting them says something. -/
theorem witness_EagerRefill_EmptyApplyUsesUpTheFirstCall :
    someKey.length = Config.KEYLEN ∧ (zeroBytes 16).length = 16 ∧
    (∃ t, performAll [.init someKey zeroBlock.toList, .apply (zeroBytes 16)] State.reset = .next t) ∧
    (∃ t, performAll [.init someKey zeroBlock.toList, .apply [], .applyb 0] State.reset = .next t) :=
  ⟨someKey_length, rfl, ⟨_, rfl⟩, _, rfl⟩

end Sys2Proof.Tests
end

