-- ==== Sys2Proof/Tests/Vectors.lean ====
section
/-! SUPPORT. The model's own tests of the micro-operations and the commands. Every expected value is the spec's:
`95_test_vectors.md`, the section named at each test. -/

namespace Sys2Proof.Tests

open Sys2Proof Sys2Proof.Machine

/-! ## Fixtures -/

/-- `TOY` (`95_test_vectors.md` section 1). -/
def toy : Cipher := fun k b => Vector.ofFn fun i => b[i] ^^^ k.getD i.val 0

/-- The two results of `E` that section 2.1 lists for the first two NIST counter blocks. -/
def nist : Cipher := fun _ b =>
  if b = blkBE 0xf0f1f2f3f4f5f6f7f8f9fafbfcfdfeff then blkBE 0xec8cdf7398607cb0f2d21675ea9ea1e4
  else blkBE 0x362b7c3c6773516318a077d7fc5073ae

/-- The reset state with a key length of 16. -/
def reset16 : State := { State.reset with regs := Registers.unconstructed 16 }

/-- The sixteen bytes of a number, first byte most significant. -/
def bytes16 (v : Nat) : List Byte := (blkBE v).toList

/-- After INIT with the section 1 key and counter. -/
def toyInstance : State :=
  initialise 16 (bytes16 0x000102030405060708090a0b0c0d0e0f) (bytes16 0xfe) reset16

def toyBlock2 : Block := blkBE 0x000102030405060708090a0b0c0d0ef0

/-! ## The micro-operations -/

/-- Rows of section 3.1: no carry, carry through 1, 2, 15 and 16 bytes, an inner `ff`, a high `ff`. -/
theorem test_inc128_rows :
    inc128 (blkBE 0) = blkBE 1 ∧ inc128 (blkBE 0xff) = blkBE 0x100 ∧ inc128 (blkBE 0xffff) = blkBE 0x10000 ∧
    inc128 (blkBE 0xff00ff) = blkBE 0xff0100 ∧
    inc128 (blkBE 0x00ffffffffffffffffffffffffffffff) = blkBE 0x01000000000000000000000000000000 ∧
    inc128 (blkBE 0xff000000000000000000000000000000) = blkBE 0xff000000000000000000000000000001 ∧
    inc128 (blkBE 0xffffffffffffffffffffffffffffffff) = blkBE 0 ∧
    inc128 (blkBE 0xf0f1f2f3f4f5f6f7f8f9fafbfcfdfeff) = blkBE 0xf0f1f2f3f4f5f6f7f8f9fafbfcfdff00 := by decide

/-- Section 3.3. -/
theorem test_xor_rows :
    xorb 0x6b 0xec = 0x87 ∧ xorb 0xa5 0x5a = 0xff ∧ xorb 0x12 0xff = 0xed ∧ xorb 0x80 0x01 = 0x81 ∧
    xorw (wordOfLanes 0x6b 0xc1 0xbe 0xe2) (wordOfLanes 0xec 0x8c 0xdf 0x73) = wordOfLanes 0x87 0x4d 0x61 0x91 := by
  decide

/-- R92's example on the fixture of section 2.1. -/
theorem test_refill_then_take :
    let s := initialise 16 (bytes16 0) (bytes16 0xf0f1f2f3f4f5f6f7f8f9fafbfcfdfeff) reset16
    (refill nist s).regs.ksb = blkBE 0xec8cdf7398607cb0f2d21675ea9ea1e4 ∧ (refill nist s).regs.off = 0 ∧
    (refill nist s).regs.ctr = blkBE 0xf0f1f2f3f4f5f6f7f8f9fafbfcfdff00 ∧
    (nextKeystreamByte nist s).1 = 0xec ∧ (nextKeystreamByte nist (nextKeystreamByte nist s).2).1 = 0x8c := by
  decide

/-! ## The commands -/

/-- Section 3.5: a successful INIT, and each failed one. -/
theorem test_init_answers :
    toyInstance.responses = [[0x00]] ∧ toyInstance.regs.valid = true ∧ toyInstance.regs.ctr = blkBE 0xfe ∧
    toyInstance.regs.off = 16 ∧
    (initialise 16 (List.replicate 15 0) (bytes16 0) reset16).responses = [[0x01]] ∧
    (initialise 16 (List.replicate 17 0) (bytes16 0) reset16).responses = [[0x01]] ∧
    (initialise 16 (bytes16 0) (List.replicate 15 0) reset16).responses = [[0x02]] ∧
    (initialise 16 (List.replicate 15 0) (List.replicate 17 0) reset16).responses = [[0x01]] ∧
    (initialise 16 [] [] reset16).responses = [[0x01]] ∧ (initialise 16 (bytes16 0) [] reset16).responses = [[0x02]] := by
  decide

/-- Program P4, step 21: a failed INIT destroys the instance. -/
theorem test_failed_init_destroys :
    (initialise 16 (bytes16 0) (List.replicate 15 0) (applyByte toy 0x41 toyInstance)).regs = Registers.unconstructed 16 := by
  decide

/-- Program P2, steps 2 and 3. -/
theorem test_applyb_toy :
    let s := applyByte toy 0x40 toyInstance
    s.responses = [[0x00], [0x00, 0x40]] ∧ s.regs.ctr = blkBE 0xff ∧
    s.regs.ksb = blkBE 0x000102030405060708090a0b0c0d0ef1 ∧ s.regs.off = 1 := by decide

theorem test_applyw_toy :
    let s := applyWord toy (wordOfLanes 0x41 0x42 0x43 0x44) (applyByte toy 0x40 toyInstance)
    s.responses = [[0x00], [0x00, 0x40], [0x00, 0x40, 0x40, 0x40, 0x40]] ∧ s.regs.off = 5 ∧ s.cipherCalls.length = 1 := by
  decide

/-- Section 3.4, straddling from `OFF = 15`. -/
theorem test_applyw_straddles :
    let s := applyWord toy (wordOfLanes 0x11 0x22 0x33 0x44) (applyStream toy (List.replicate 15 0) toyInstance)
    s.responses.getLast? = some [0x00, 0xe0, 0x22, 0x32, 0x46] ∧ s.regs.ctr = blkBE 0x100 ∧
    s.regs.ksb = toyBlock2 ∧ s.regs.off = 3 := by decide

/-- Section 2.2: "AB" then "CD" equals "ABCD". -/
theorem test_apply_continues :
    (applyStream toy [0x43, 0x44] (applyStream toy [0x41, 0x42] toyInstance)).responses =
      [[0x00], [0x00, 0x41, 0x43], [0x00, 0x41, 0x47]] ∧
    (applyStream toy [0x41, 0x42, 0x43, 0x44] toyInstance).responses = [[0x00], [0x00, 0x41, 0x43, 0x41, 0x47]] := by
  decide

/-- Program P3: 32 zero bytes from the counter all `ff`. -/
theorem test_apply_wraps_counter :
    let s := applyStream toy (List.replicate 32 0)
      (initialise 16 (List.replicate 16 0xa5) (List.replicate 16 0xff) reset16)
    s.responses = [[0x00], 0x00 :: (List.replicate 16 0x5a ++ List.replicate 16 0xa5)] ∧ s.regs.ctr = blkBE 1 ∧
    s.regs.off = 16 := by decide +kernel

/-- Section 2.1, the first call of the known answer. -/
theorem test_known_answer_block :
    let s := applyStream nist (bytes16 0x6bc1bee22e409f96e93d7e117393172a)
      (initialise 16 (bytes16 0x2b7e151628aed2a6abf7158809cf4f3c) (bytes16 0xf0f1f2f3f4f5f6f7f8f9fafbfcfdfeff) reset16)
    s.responses = [[0x00], 0x00 :: bytes16 0x874d6191b620e3261bef6864990db6ce] ∧ s.regs.off = 16 ∧
    s.regs.ctr = blkBE 0xf0f1f2f3f4f5f6f7f8f9fafbfcfdff00 := by decide

/-- Section 3.4, refused on an unconstructed engine; section 3.5, CLEAR. -/
theorem test_refused_and_clear :
    applyByte toy 0x41 reset16 = { reset16 with responses := [[0x03]] } ∧
    applyStream toy [] reset16 = { reset16 with responses := [[0x03]] } ∧
    (clearEngine 16 toyInstance).regs = Registers.unconstructed 16 ∧
    (clearEngine 16 toyInstance).responses = [[0x00], [0x00]] := ⟨rfl, rfl, rfl, rfl⟩

end Sys2Proof.Tests
end

section
/-! PROOFS. `int` and `blk` (`00_scope.md` R13): the value of a block as a sum over its bytes, a number as the sum of
its base-256 digits, and the two as inverses. -/

namespace Sys2Proof.Machine

open Sys2Proof

/-! ## Base-256 digits -/

/-- A number modulo `256 ^ n` is the sum of its `n` low digits. -/
theorem sum_digits_eq_mod (v n : Nat) : ∑ j ∈ Finset.range n, v / 256 ^ j % 256 * 256 ^ j = v % 256 ^ n := by
  induction n with
  | zero => simp [Nat.mod_one]
  | succ n ih => rw [Finset.sum_range_succ, ih, Nat.mod_pow_succ, Nat.mul_comm (256 ^ n)]

/-- The same sum, highest digit first. -/
theorem sum_digits_high_first (v n : Nat) :
    ∑ i : Fin n, v / 256 ^ (n - 1 - i.val) % 256 * 256 ^ (n - 1 - i.val) = v % 256 ^ n := by
  rw [← sum_digits_eq_mod, ← Finset.sum_range_reflect, Finset.sum_range]

/-- Reading the bytes of a list most significant first weighs byte `i` of `n` with `256 ^ (n - 1 - i)`. -/
theorem foldl_ofFn_eq_sum {n : Nat} (f : Fin n → Byte) :
    (List.ofFn f).foldl (fun acc x => acc * 256 + x.toNat) 0 = ∑ i, (f i).toNat * 256 ^ (n - 1 - i.val) := by
  induction n with
  | zero => rfl
  | succ n ih =>
    have shift (i : Fin n) : n - i.val = n - 1 - i.val + 1 := by omega
    rw [List.ofFn_succ', List.concat_eq_append, List.foldl_append, ih, Fin.sum_univ_castSucc]
    simp [shift, Finset.sum_mul, pow_succ, Nat.mul_assoc]

/-! ## `int` and `blk` -/

theorem intBE_eq_sum (b : Block) : intBE b = ∑ i : Fin 16, b[i].toNat * 256 ^ (15 - i.val) := by
  have bytes : b.toList = List.ofFn fun i : Fin 16 => b[i] := by
    rw [← Vector.toList_ofFn]; congr 1; ext i hi; simp
  rw [intBE, bytes, foldl_ofFn_eq_sum]

theorem intBE_lt (b : Block) : intBE b < 2 ^ 128 := by
  rw [intBE_eq_leValue]
  simpa using leValue_lt b.toList.reverse

theorem blkBE_intBE (b : Block) : blkBE (intBE b) = b := by
  ext1 i hi
  rw [blkBE_getElem _ _ hi]
  exact BitVec.eq_of_toNat_eq (by rw [BitVec.toNat_ofNat]; exact intBE_digit b i hi)

/-- `blk` keeps a number modulo 2^128. -/
theorem intBE_blkBE (v : Nat) : intBE (blkBE v) = v % 2 ^ 128 := by
  rw [intBE_eq_sum]
  simpa [blkBE_getElem] using sum_digits_high_first v 16

/-- Byte `i` of a block as bits of its 128-bit vector, lowest bit `120 - 8i`. -/
theorem extractLsb'_intBE (b : Block) (i : Fin 16) :
    (BitVec.ofNat 128 (intBE b)).extractLsb' (120 - 8 * i.val) 8 = b[i] := by
  apply BitVec.eq_of_toNat_eq
  have weight : 2 ^ (120 - 8 * i.val) = 256 ^ (15 - i.val) := by
    rw [show 120 - 8 * i.val = 8 * (15 - i.val) by omega, pow_mul]; norm_num
  rw [BitVec.extractLsb'_toNat, BitVec.toNat_ofNat, Nat.mod_eq_of_lt (intBE_lt b), Nat.shiftRight_eq_div_pow, weight]
  exact intBE_digit b i i.isLt

/-- Settles O16 from the digits of `intBE`: the sum over the bytes, the two inverses, and the bits of a byte. -/
theorem intAndBlkAreInverse : Obligations.IntAndBlkAreInverse := by
  refine ⟨fun b => ?_, fun b => ⟨intBE_lt b, blkBE_intBE b⟩, fun v hv => ?_, extractLsb'_intBE⟩
  · rw [intBE_eq_sum, Fin.sum_univ_def]
  · rw [intBE_blkBE, Nat.mod_eq_of_lt hv]

end Sys2Proof.Machine
end

section
/-! PROOFS. INC128 as addition of one modulo 2^128 (`40_counter_increment.md` R81), and the counter blocks it
runs through (`10_state.md` R34). -/

namespace Sys2Proof.Machine

open Sys2Proof

/-- Writing byte `i` exchanges that byte's share of the value. -/
theorem intBE_set (b : Block) {i : Nat} (h : i < 16) (x : Byte) :
    intBE (b.set i x) + b[i].toNat * 256 ^ (15 - i) = intBE b + x.toNat * 256 ^ (15 - i) := by
  have others : ∀ j ∈ Finset.univ.erase (⟨i, h⟩ : Fin 16), (b.set i x)[j] = b[j] := by
    intro j hj
    have hne : i ≠ j.val := fun e => Finset.ne_of_mem_erase hj (Fin.ext e.symm)
    simp [hne]
  rw [intBE_eq_sum, intBE_eq_sum, ← Finset.add_sum_erase _ _ (Finset.mem_univ (⟨i, h⟩ : Fin 16)),
    ← Finset.add_sum_erase Finset.univ (fun j : Fin 16 => b[j].toNat * _) (Finset.mem_univ (⟨i, h⟩ : Fin 16)),
    Finset.sum_congr rfl fun j hj => by rw [others j hj]]
  simp; omega

/-- The loop with `n` bytes still to look at adds one to the lowest of them. -/
theorem intBE_inc128From {n : Nat} (h : n ≤ 16) (b : Block) :
    intBE (inc128From n h b) ≡ intBE b + 256 ^ (16 - n) [MOD 2 ^ 128] := by
  induction n generalizing b with
  | zero => exact (Nat.add_mod_right (intBE b) (2 ^ 128)).symm
  | succ n ih =>
    have weight : 256 ^ (16 - n) = 256 * 256 ^ (15 - n) := by
      rw [← pow_succ']; congr 1; omega
    rw [show 16 - (n + 1) = 15 - n by omega]
    by_cases hw : b[n] + 1 = 0
    · have byte : b[n].toNat = 255 := by bv_omega
      have zeroed := intBE_set b h 0
      rw [byte, show (0 : Byte).toNat = 0 from rfl] at zeroed
      rw [inc128From_wrap h b hw]
      refine (ih _ _).trans (congrArg (· % 2 ^ 128) ?_)
      rw [weight]; omega
    · have byte : (b[n] + 1).toNat = b[n].toNat + 1 := by bv_omega
      have added := intBE_set b h (b[n] + 1)
      rw [byte, Nat.add_mul] at added
      rw [inc128From_stop h b hw]
      exact congrArg (· % 2 ^ 128) (by omega)

/-- INC128 adds one modulo 2^128. -/
theorem intBE_inc128 (b : Block) : intBE (inc128 b) = (intBE b + 1) % 2 ^ 128 := by
  rw [← Nat.mod_eq_of_lt (intBE_lt (inc128 b))]
  exact intBE_inc128From (Nat.le_refl 16) b

/-- A block with the value `(v + n) mod 2^128` is the counter block `n` places after `v`. -/
theorem eq_counterBlock {b : Block} {v n : Nat} (h : intBE b = (v + n) % 2 ^ 128) : b = counterBlock v n := by
  rw [counterBlock, ← h, blkBE_intBE]

@[simp] theorem callsFrom_zero (E : Cipher) (key : List Byte) (v : Nat) : callsFrom E key v 0 = [] := rfl

theorem callsFrom_succ (E : Cipher) (key : List Byte) (v m : Nat) :
    callsFrom E key v (m + 1) = callsFrom E key v m ++
      [{ key := key, block := counterBlock v m, result := E key (counterBlock v m) }] := by
  simp [callsFrom, List.range_succ]

end Sys2Proof.Machine
end

section
/-! PROOFS. What a keystream byte, a run of byte steps and a step leave unchanged, and what they depend on
(`41_keystream_buffer.md` R93, R95; `43_apply.md` R114; `60_exceptions.md` R155). -/

namespace Sys2Proof.Machine

open Sys2Proof

/-! ## One keystream byte -/

/-- The two ways to a keystream byte (R95): the buffer holds one, or it is exhausted. -/
theorem off_lt_or_exhausted (s : State) : s.regs.off.val < 16 ∨ s.regs.off.val = 16 :=
  Nat.lt_or_eq_of_le (Nat.le_of_lt_succ s.regs.off.isLt)

/-- What the datapath never writes: `KEY` and `VALID` (R20, R24), the host's script and the responses. -/
structure SameFrame (s t : State) : Prop where
  key : t.regs.key = s.regs.key
  valid : t.regs.valid = s.regs.valid
  script : t.script = s.script
  responses : t.responses = s.responses

theorem SameFrame.refl (s : State) : SameFrame s s := ⟨rfl, rfl, rfl, rfl⟩

theorem SameFrame.trans {s t u : State} (h : SameFrame s t) (h' : SameFrame t u) : SameFrame s u :=
  ⟨h'.key.trans h.key, h'.valid.trans h.valid, h'.script.trans h.script, h'.responses.trans h.responses⟩

theorem nextKeystreamByte_frame (E : Cipher) (s : State) : SameFrame s (nextKeystreamByte E s).2 := by
  rcases off_lt_or_exhausted s with h | h
  · rw [nextKeystreamByte_buffered E h]; exact ⟨rfl, rfl, rfl, rfl⟩
  · rw [nextKeystreamByte_exhausted E h]; exact ⟨rfl, rfl, rfl, rfl⟩

/-- A keystream byte and the registers after it depend on the registers alone. -/
theorem nextKeystreamByte_congr (E : Cipher) {s s' : State} (h : s.regs = s'.regs) :
    (nextKeystreamByte E s).1 = (nextKeystreamByte E s').1 ∧
    (nextKeystreamByte E s).2.regs = (nextKeystreamByte E s').2.regs := by
  rcases off_lt_or_exhausted s with ho | ho
  · rw [nextKeystreamByte_buffered E ho, nextKeystreamByte_buffered E (h ▸ ho)]
    simp [take, h]
  · rw [nextKeystreamByte_exhausted E ho, nextKeystreamByte_exhausted E (h ▸ ho)]
    simp [h]

/-! ## Byte steps -/

theorem byteSteps_cons (E : Cipher) (b : Byte) (bs : List Byte) (s : State) :
    byteSteps E (b :: bs) s =
      ((b ^^^ (nextKeystreamByte E s).1) :: (byteSteps E bs (nextKeystreamByte E s).2).1,
        (byteSteps E bs (nextKeystreamByte E s).2).2) := rfl

/-- What every keystream byte keeps, a run of byte steps keeps. -/
theorem byteSteps_keeps (E : Cipher) {P : State → Prop} (hP : ∀ s, P s → P (nextKeystreamByte E s).2)
    (data : List Byte) {s : State} (hs : P s) : P (byteSteps E data s).2 := by
  induction data generalizing s with
  | nil => exact hs
  | cons b bs ih => rw [byteSteps_cons]; exact ih (hP s hs)

theorem byteSteps_frame (E : Cipher) (data : List Byte) (s : State) : SameFrame s (byteSteps E data s).2 :=
  byteSteps_keeps E (fun t ht => ht.trans (nextKeystreamByte_frame E t)) data (.refl s)

section
variable (E : Cipher) (data : List Byte) (s : State)

@[simp] theorem byteSteps_key : (byteSteps E data s).2.regs.key = s.regs.key := (byteSteps_frame E data s).key
@[simp] theorem byteSteps_valid : (byteSteps E data s).2.regs.valid = s.regs.valid := (byteSteps_frame E data s).valid
@[simp] theorem byteSteps_script : (byteSteps E data s).2.script = s.script := (byteSteps_frame E data s).script
@[simp] theorem byteSteps_responses : (byteSteps E data s).2.responses = s.responses :=
  (byteSteps_frame E data s).responses

end

/-- Bytes that do not run past the buffered block cause no refill. -/
theorem byteSteps_buffered (E : Cipher) (data : List Byte) {s : State} (h : s.regs.off.val + data.length ≤ 16) :
    (byteSteps E data s).2.regs.ctr = s.regs.ctr ∧ (byteSteps E data s).2.regs.ksb = s.regs.ksb ∧
    (byteSteps E data s).2.cipherCalls = s.cipherCalls := by
  induction data generalizing s with
  | nil => exact ⟨rfl, rfl, rfl⟩
  | cons b bs ih =>
    rw [List.length_cons] at h
    have ho : s.regs.off.val < 16 := by omega
    rw [byteSteps_cons, nextKeystreamByte_buffered E ho]
    exact ih (s := (take s ho).2) (by rw [take_off]; omega)

/-- The output of byte steps and the registers after them depend on the data and the registers alone. -/
theorem byteSteps_congr (E : Cipher) (data : List Byte) {s s' : State} (h : s.regs = s'.regs) :
    (byteSteps E data s).1 = (byteSteps E data s').1 ∧
    (byteSteps E data s).2.regs = (byteSteps E data s').2.regs := by
  induction data generalizing s s' with
  | nil => exact ⟨rfl, h⟩
  | cons b bs ih =>
    obtain ⟨byte, regs⟩ := nextKeystreamByte_congr E h
    obtain ⟨bytes, after⟩ := ih regs
    simp only [byteSteps_cons, byte, bytes]
    exact ⟨trivial, after⟩

/-! ## Commands and steps -/

/-- Every command answers a next state. -/
theorem exec_answers (i : Instr) (s : State) : ∃ t, exec i s = .next t := by
  cases i <;> exact ⟨_, rfl⟩

/-- No state is stuck. -/
theorem step_answers (s : State) : ∃ t, step s = .next t := by
  unfold step
  split
  · exact ⟨_, rfl⟩
  · exact ⟨_, rfl⟩
  · next f t _ =>
    unfold performFrame
    split
    · exact exec_answers _ _
    · exact ⟨_, rfl⟩

/-- A run goes on from the state its first step answers. -/
theorem run_succ_of_step {M : Host.Core} {s u : M.State} (h : M.step s = .next u) (n : Nat) :
    M.run (n + 1) s = M.run n u := by
  rw [Host.Core.run, h]

/-- What holds at the start and is kept by every step holds after any number of steps, and there is a state
then. -/
theorem run_keeps {P : State → Prop} (hP : ∀ s t, P s → step s = .next t → P t) (n : Nat) {s : State} (hs : P s) :
    ∃ t, core.run n s = .next t ∧ P t := by
  induction n generalizing s with
  | zero => exact ⟨s, rfl, hs⟩
  | succ n ih =>
    obtain ⟨u, hu⟩ := step_answers s
    obtain ⟨t, ht, hPt⟩ := ih (hP s u hs hu)
    exact ⟨t, (run_succ_of_step (M := core) hu n).trans ht, hPt⟩

end Sys2Proof.Machine
end

section
/-! PROOFS. The registers at rest (`10_state.md` R36), the frame of the apply commands (R37), and that a command's
effect depends on the registers alone (R25, R26). -/

namespace Sys2Proof.Machine

open Sys2Proof

/-- Settles O1: the reset state is the unconstructed engine. -/
theorem resetLeavesStatedValues : Obligations.ResetLeavesStatedValues :=
  ⟨rfl, rfl, Vector.toList_replicate, Vector.toList_replicate, rfl, rfl⟩

/-- Settles O37 from the frame of byte steps; a refused command changes the responses alone. -/
theorem applyFrame : Obligations.ApplyFrame := by
  intro s t i hi ht
  rw [exec_of_carriesData hi] at ht
  cases ht
  cases hv : s.regs.valid with
  | false =>
    rw [applyStream_unconstructed _ _ hv]
    exact ⟨rfl, hv, rfl, fun _ => ⟨rfl, rfl, rfl⟩, fun _ => ⟨rfl, rfl, rfl⟩⟩
  | true =>
    rw [applyStream_constructed _ _ hv, respondOk_eq]
    refine ⟨byteSteps_key .., (byteSteps_valid ..).trans hv, byteSteps_script .., byteSteps_buffered _ _, ?_⟩
    rintro (hnil | hfalse)
    · rw [hnil]; exact ⟨rfl, rfl, rfl⟩
    · cases hfalse

/-- Settles O44: by the cases of a command; only those of the apply commands read the registers. -/
theorem onlyTheRegistersMatter : Obligations.OnlyTheRegistersMatter := by
  intro s s' i h
  rcases exec_cases i s with ⟨k, d, rfl, hk, ht⟩ | ⟨k, c, rfl, hk, ht⟩ | ⟨k, c, rfl, hk, hc, ht⟩ | ⟨rfl, ht⟩ |
    ⟨hi, hv, ht⟩ | ⟨hi, hv, ht⟩
  · exact ⟨_, _, _, ht, congrArg Host.Outcome.next (initialise_loads d s' hk), rfl, rfl, rfl⟩
  · exact ⟨_, _, _, ht, congrArg Host.Outcome.next (initialise_wrongKey c s' hk), rfl, rfl, rfl⟩
  · exact ⟨_, _, _, ht, congrArg Host.Outcome.next (initialise_wrongCounter s' hk hc), rfl, rfl, rfl⟩
  · exact ⟨_, _, _, ht, rfl, rfl, rfl, rfl⟩
  · have ht' := exec_of_carriesData hi s'
    rw [applyStream_unconstructed _ _ (h ▸ hv)] at ht'
    exact ⟨_, _, _, ht, ht', h, rfl, rfl⟩
  · have ht' := exec_of_carriesData hi s'
    rw [applyStream_constructed _ _ (h ▸ hv)] at ht'
    obtain ⟨bytes, after⟩ := byteSteps_congr Config.E (payload i) h
    exact ⟨_, _, 0x00 :: (byteSteps Config.E (payload i) s).1, ht, ht', after, by simp [respondOk_eq],
      by simp [respondOk_eq, bytes]⟩

end Sys2Proof.Machine
end

section
/-! PROOFS. The invariant of the engine (`10_state.md` section 6, R31 to R35): it holds at reset, every keystream byte,
command and step keeps it, and so it holds after any events from reset. -/

namespace Sys2Proof.Machine

open Sys2Proof

/-! ## States that meet the invariant -/

/-- The invariant reads the registers, the ghost variables and the calls, nothing else. -/
theorem Inv.congr {s t : State} (hs : Inv s) (hr : t.regs = s.regs) (hg : t.ghost = s.ghost)
    (hc : t.cipherCalls = s.cipherCalls) : Inv t where
  keyLength := hr ▸ hs.keyLength
  ghostExists := by rw [hr, hg]; exact hs.ghostExists
  unconstructed := by rw [hr]; exact hs.unconstructed
  constructed g h := by
    have hi := hs.constructed g (hg ▸ h)
    exact ⟨hi.nref, hr ▸ hi.off, hr ▸ hi.ctr, hr ▸ hi.ksb, by rw [hr, hc]; exact hi.calls⟩

/-- An engine UNCONSTRUCT has left meets the invariant. -/
theorem inv_of_unconstructed {s : State} (hr : s.regs = Registers.unconstructed Config.KEYLEN)
    (hg : s.ghost = none) : Inv s where
  keyLength := by simp [hr]
  ghostExists := by simp [hr, hg]
  unconstructed _ := hr
  constructed g h := by simp [hg] at h

/-- An engine INIT has just loaded meets the invariant. -/
theorem inv_of_fresh {s : State} {k : List Byte} {d : Block} (hk : k.length = Config.KEYLEN)
    (hr : s.regs = Registers.fresh k d) (hg : s.ghost = some { c0 := d, pos := 0, nref := 0 }) : Inv s where
  keyLength := hr ▸ hk
  ghostExists := by rw [hr, hg]; rfl
  unconstructed h := by rw [hr] at h; cases h
  constructed g h := by
    cases hg.symm.trans h
    refine ⟨show 0 = blocksFor 0 by decide, by rw [hr]; rfl, ?_, by rw [hr]; rfl, s.cipherCalls, by simp⟩
    rw [hr]; exact (Nat.mod_eq_of_lt (intBE_lt d)).symm

/-- Settles O41: the reset state is unconstructed. -/
theorem invariantHoldsAtReset : Obligations.InvariantHoldsAtReset := inv_of_unconstructed rfl rfl

/-- A constructed engine that meets the invariant has its ghost variables. -/
theorem Inv.exists_ghost {s : State} (hs : Inv s) (hv : s.regs.valid = true) :
    ∃ g, s.ghost = some g ∧ InstanceInv s g := by
  obtain ⟨g, hg⟩ := Option.isSome_iff_exists.1 (hs.ghostExists.trans hv)
  exact ⟨g, hg, hs.constructed g hg⟩

/-- The buffer of a constructed engine is exhausted at whole numbers of blocks (R33). -/
theorem InstanceInv.off_eq_iff {s : State} {g : Ghost} (hi : InstanceInv s g) :
    s.regs.off.val = 16 ↔ g.pos % 16 = 0 := by
  rw [hi.off]; split <;> omega

/-- Settles O22: EXHAUSTED reads `OFF`, which the invariant gives as a function of `POS`. -/
theorem exhaustedAtBlockBoundaries : Obligations.ExhaustedAtBlockBoundaries :=
  ⟨exhausted_iff, fun s g hs hg => (exhausted_iff s.regs).trans (hs.constructed g hg).off_eq_iff⟩

/-! ## Every keystream byte keeps it -/

/-- TAKE from a buffer that holds a byte: the position moves on within the block. -/
theorem InstanceInv.after_take {s : State} {g : Ghost} (hi : InstanceInv s g) (h : s.regs.off.val < 16) :
    InstanceInv (take s h).2 g.countTake := by
  have inside : g.pos % 16 ≠ 0 := fun e => Nat.ne_of_lt h (hi.off_eq_iff.2 e)
  have hoff := hi.off
  rw [if_neg inside] at hoff
  refine ⟨?_, ?_, hi.ctr, hi.ksb, hi.calls⟩
  · rw [Ghost.countTake, hi.nref]; simp only [blocksFor]; omega
  · rw [take_off, hoff]
    show g.pos % 16 + 1 = if (g.pos + 1) % 16 = 0 then 16 else (g.pos + 1) % 16
    split <;> omega

/-- A keystream byte from an exhausted buffer: the next counter block is encrypted and one byte of it used. -/
theorem InstanceInv.after_refillAndTake {s : State} {g : Ghost} (hi : InstanceInv s g) (h : s.regs.off.val = 16) :
    InstanceInv (nextKeystreamByte Config.E s).2 { g with pos := g.pos + 1, nref := g.nref + 1 } := by
  have boundary : g.pos % 16 = 0 := hi.off_eq_iff.1 h
  have block : s.regs.ctr = counterBlock (intBE g.c0) g.nref := eq_counterBlock hi.ctr
  obtain ⟨earlier, hcalls⟩ := hi.calls
  rw [nextKeystreamByte_exhausted _ h]
  constructor
  case nref => simp only [hi.nref, blocksFor]; omega
  case off => simp only [if_neg (show (g.pos + 1) % 16 ≠ 0 by omega)]; omega
  case ctr => simp only [intBE_inc128, hi.ctr, Nat.mod_add_mod, Nat.add_assoc]
  case ksb => simp [block]
  case calls => exact ⟨earlier, by simp [hcalls, callsFrom_succ, block]⟩

/-- A constructed engine that meets the invariant. -/
def ConstructedInv (s : State) : Prop := Inv s ∧ s.regs.valid = true

/-- A keystream byte leaves ghost variables that again fit the registers. -/
theorem InstanceInv.after_keystreamByte {s : State} {g : Ghost} (hi : InstanceInv s g) (hg : s.ghost = some g) :
    ∃ g', (nextKeystreamByte Config.E s).2.ghost = some g' ∧ InstanceInv (nextKeystreamByte Config.E s).2 g' := by
  rcases off_lt_or_exhausted s with h | h
  · rw [nextKeystreamByte_buffered _ h]
    exact ⟨_, by simp [hg], hi.after_take h⟩
  · exact ⟨_, by simp [nextKeystreamByte_exhausted _ h, hg], hi.after_refillAndTake h⟩

/-- Every keystream byte of a constructed engine keeps the invariant. -/
theorem ConstructedInv.after_keystreamByte {s : State} (hs : ConstructedInv s) :
    ConstructedInv (nextKeystreamByte Config.E s).2 := by
  obtain ⟨inv, hv⟩ := hs
  obtain ⟨g, hg, hi⟩ := inv.exists_ghost hv
  obtain ⟨g', hg', hi'⟩ := hi.after_keystreamByte hg
  have frame := nextKeystreamByte_frame Config.E s
  have hv' := frame.valid.trans hv
  refine ⟨⟨by rw [frame.key]; exact inv.keyLength, by rw [hg', hv']; rfl, by simp [hv'], ?_⟩, hv'⟩
  intro g'' hg''
  cases hg'.symm.trans hg''
  exact hi'

/-! ## Every command and every step keeps it -/

/-- Every command keeps the invariant. -/
theorem exec_keeps_inv {i : Instr} {s t : State} (hs : Inv s) (ht : exec i s = .next t) : Inv t := by
  rcases exec_cases i s with ⟨k, d, -, hk, h⟩ | ⟨k, c, -, -, h⟩ | ⟨k, c, -, -, -, h⟩ | ⟨-, h⟩ | ⟨-, -, h⟩ | ⟨-, hv, h⟩ <;>
    cases ht.symm.trans h
  · exact inv_of_fresh hk rfl rfl
  · exact inv_of_unconstructed rfl rfl
  · exact inv_of_unconstructed rfl rfl
  · exact inv_of_unconstructed rfl rfl
  · exact hs.congr rfl rfl rfl
  · exact (byteSteps_keeps _ (fun _ h => h.after_keystreamByte) (payload i)
      (show ConstructedInv s from ⟨hs, hv⟩)).1.congr rfl rfl rfl

/-- Settles O42: by the cases of a step; the command's case is `exec_keeps_inv`. -/
theorem stepKeepsInvariant : Obligations.StepKeepsInvariant := by
  intro s t hs ht
  rcases step_cases ht with ⟨-, rfl⟩ | ⟨rest, -, rfl⟩ | ⟨f, e, rest, -, -, rfl⟩ | ⟨f, i, rest, -, -, h⟩
  · exact hs
  · exact inv_of_unconstructed rfl rfl
  · exact hs.congr rfl rfl rfl
  · have issued : Inv { s with script := rest } := hs.congr rfl rfl rfl
    exact exec_keeps_inv issued h

/-! ## After any events from reset -/

/-- No command but a successful INIT changes the registers of an unconstructed engine (R32). -/
theorem exec_keeps_unconstructed {i : Instr} {s t : State}
    (hr : s.regs = Registers.unconstructed Config.KEYLEN) (ht : exec i s = .next t) (hi : isGoodInit i = false) :
    t.regs = s.regs := by
  rcases exec_cases i s with ⟨k, d, rfl, hk, -⟩ | ⟨k, c, -, -, h⟩ | ⟨k, c, -, -, -, h⟩ | ⟨-, h⟩ | ⟨-, -, h⟩ | ⟨-, hv, -⟩
  · simp [isGoodInit, hk] at hi
  · cases ht.symm.trans h; exact hr.symm
  · cases ht.symm.trans h; exact hr.symm
  · cases ht.symm.trans h; exact hr.symm
  · cases ht.symm.trans h; rfl
  · rw [hr] at hv; cases hv

/-- Settles O43: the invariant holds at reset whatever the script, a run keeps it, and R31 to R35 are read off it. -/
theorem reachableStatesMeetTheInvariants : Obligations.ReachableStatesMeetTheInvariants := by
  intro script n
  have start : Inv { State.reset with script := script } := invariantHoldsAtReset.congr rfl rfl rfl
  obtain ⟨t, ht, inv⟩ := run_keeps stepKeepsInvariant n start
  refine ⟨t, ht, Nat.le_of_lt_succ t.regs.off.isLt, fun hv => ?_, fun hv i u hu hi => ?_, fun hv => ?_⟩
  · rw [inv.unconstructed hv]; exact ⟨rfl, rfl, rfl, rfl⟩
  · exact exec_keeps_unconstructed (inv.unconstructed hv) hu hi
  · obtain ⟨g, hg, hi⟩ := inv.exists_ghost hv
    refine ⟨g, hg, hi.nref, hi.off, hi.ctr, hi.ksb.trans ?_⟩
    split
    · rfl
    · rw [counterBlock, Nat.add_sub_assoc (by omega)]

end Sys2Proof.Machine
end

section
/-! PROOFS. What a run of byte steps answers and which calls it makes, read off the registers it starts from
(`41_keystream_buffer.md` R95, R96, R98; `20_memory.md` R48), and runs of apply commands as one run of byte steps
(`43_apply.md` R117). -/

namespace Sys2Proof.Machine

open Sys2Proof

/-! ## Counter blocks, keystream and calls after INC128 -/

theorem counterBlock_intBE_zero (b : Block) : counterBlock (intBE b) 0 = b :=
  (eq_counterBlock (Nat.mod_eq_of_lt (intBE_lt b)).symm).symm

theorem counterBlock_intBE_inc128 (b : Block) (n : Nat) :
    counterBlock (intBE (inc128 b)) n = counterBlock (intBE b) (n + 1) := by
  rw [counterBlock, counterBlock, intBE_inc128, Nat.mod_add_mod, Nat.add_assoc, Nat.add_comm 1 n]

/-- The keystream's first 16 bytes are the cipher's result on the initial counter itself. -/
theorem keystream_of_lt (E : Cipher) (k : List Byte) (c : Block) {j : Nat} (h : j < 16) :
    keystream E k c j = (E k c)[j] := by
  simp only [keystream, Nat.div_eq_of_lt h, Nat.mod_eq_of_lt h, counterBlock_intBE_zero]

/-- From the incremented counter the keystream is the same one, a block further on. -/
theorem keystream_inc128 (E : Cipher) (k : List Byte) (c : Block) (j : Nat) :
    keystream E k (inc128 c) j = keystream E k c (j + 16) := by
  simp only [keystream, counterBlock_intBE_inc128, Nat.add_div_right j (show 0 < 16 by decide), Nat.add_mod_right]

/-- The calls from a counter on are the call for that counter, then those from the incremented one. -/
theorem callsFrom_succ_inc128 (E : Cipher) (k : List Byte) (c : Block) (m : Nat) :
    callsFrom E k (intBE c) (m + 1) =
      { key := k, block := c, result := E k c } :: callsFrom E k (intBE (inc128 c)) m := by
  simp [callsFrom, List.range_succ_eq_map, counterBlock_intBE_zero, counterBlock_intBE_inc128]

/-! ## The keystream ahead of a register state -/

theorem upcoming_exhausted (E : Cipher) {r : Registers} (h : r.off.val = 16) (j : Nat) :
    upcoming E r j = keystream E r.key r.ctr j := by
  rw [upcoming, dif_neg (by omega)]; congr 1; omega

theorem nextKeystreamByte_byte (E : Cipher) (s : State) : (nextKeystreamByte E s).1 = upcoming E s.regs 0 := by
  rcases off_lt_or_exhausted s with h | h
  · rw [nextKeystreamByte_buffered E h]; simp only [upcoming, Nat.add_zero, h, dif_pos, take_byte]
  · rw [nextKeystreamByte_exhausted E h, upcoming_exhausted E h, keystream_of_lt E _ _ (by decide)]

/-- One byte taken, the keystream ahead is the one ahead before without its first byte. -/
theorem upcoming_nextKeystreamByte (E : Cipher) (s : State) (j : Nat) :
    upcoming E (nextKeystreamByte E s).2.regs j = upcoming E s.regs (j + 1) := by
  rcases off_lt_or_exhausted s with h | h
  · rw [nextKeystreamByte_buffered E h]
    simp only [upcoming, take_off, take_ksb, take_key, take_ctr, Nat.add_assoc, Nat.add_comm 1 j]
  · rw [nextKeystreamByte_exhausted E h, upcoming_exhausted E h]
    have off : ((1 : Fin 17) : Nat) + j = j + 1 := Nat.add_comm 1 j
    simp only [upcoming, off]
    split
    · next inside => exact (keystream_of_lt E _ _ inside).symm
    · next past => rw [keystream_inc128]; congr 1; omega

/-- Byte steps answer the data exclusive-or the keystream ahead (`43_apply.md` R116). -/
theorem byteSteps_output (E : Cipher) (data : List Byte) (s : State) :
    (byteSteps E data s).1 = xorStream data (upcoming E s.regs) := by
  induction data generalizing s with
  | nil => rfl
  | cons b bs ih =>
    rw [byteSteps_cons, ih, nextKeystreamByte_byte, funext (upcoming_nextKeystreamByte E s)]
    simp [xorStream, List.mapIdx_cons]

/-! ## The calls of byte steps -/

theorem refillsFor_zero (r : Registers) : refillsFor r 0 = 0 :=
  Nat.div_eq_of_lt (by have := r.off.isLt; omega)

/-- From an exhausted buffer every 16 bytes begun cause a refill. -/
theorem refillsFor_exhausted {r : Registers} (h : r.off.val = 16) (n : Nat) : refillsFor r n = blocksFor n := by
  simp only [refillsFor, blocksFor, h]; omega

theorem blocksFor_succ (n : Nat) : blocksFor (n + 1) = n / 16 + 1 := by
  simp only [blocksFor]; omega

/-- Byte steps make the calls for the consecutive counter values from `CTR` on, one a refill. -/
theorem byteSteps_cipherCalls (E : Cipher) (data : List Byte) (s : State) :
    (byteSteps E data s).2.cipherCalls = s.cipherCalls ++
      callsFrom E s.regs.key (intBE s.regs.ctr) (refillsFor s.regs data.length) := by
  induction data generalizing s with
  | nil => simp [byteSteps, refillsFor_zero]
  | cons b bs ih =>
    rw [byteSteps_cons, ih, List.length_cons]
    rcases off_lt_or_exhausted s with h | h
    · have same : refillsFor (take s h).2.regs bs.length = refillsFor s.regs (bs.length + 1) := by
        simp only [refillsFor, take_off]; congr 1; omega
      simp [nextKeystreamByte_buffered E h, same]
    · have rest : refillsFor (nextKeystreamByte E s).2.regs bs.length = bs.length / 16 := by
        rw [nextKeystreamByte_exhausted E h]; exact congrArg (· / 16) (by simp)
      rw [rest, refillsFor_exhausted h, blocksFor_succ, callsFrom_succ_inc128, nextKeystreamByte_exhausted E h]
      simp

/-! ## Runs of apply commands -/

/-- A run of byte steps neither reads nor writes the record of responses. -/
theorem byteSteps_withResponses (E : Cipher) (data : List Byte) (s : State) (rs : List Frame) :
    byteSteps E data { s with responses := rs } =
      ((byteSteps E data s).1, { (byteSteps E data s).2 with responses := rs }) := by
  induction data generalizing s with
  | nil => rfl
  | cons b bs ih =>
    have one : nextKeystreamByte E { s with responses := rs } =
        ((nextKeystreamByte E s).1, { (nextKeystreamByte E s).2 with responses := rs }) := by
      rcases off_lt_or_exhausted s with h | h
      · rw [nextKeystreamByte_buffered E h, nextKeystreamByte_buffered E (s := { s with responses := rs }) h]; rfl
      · rw [nextKeystreamByte_exhausted E h, nextKeystreamByte_exhausted E (s := { s with responses := rs }) h]
    rw [byteSteps_cons, byteSteps_cons, one, ih]

theorem performAll_cons_of_exec {i : Instr} {s u : State} (h : exec i s = .next u) (is : List Instr) :
    performAll (i :: is) s = performAll is u := by
  rw [performAll, h]

/-- Apply commands on a constructed engine are one run of byte steps over all their bytes, answered in as many
responses as there are commands. -/
theorem performAll_apply {cmds : List Instr} (hc : ∀ i ∈ cmds, carriesData i = true) {s : State}
    (hv : s.regs.valid = true) :
    ∃ rs, rs.length = cmds.length ∧
      responseData rs = (byteSteps Config.E (cmds.flatMap payload) s).1 ∧
      performAll cmds s = .next
        { (byteSteps Config.E (cmds.flatMap payload) s).2 with responses := s.responses ++ rs } := by
  induction cmds generalizing s with
  | nil => exact ⟨[], rfl, rfl, by simp [performAll, byteSteps]⟩
  | cons i is ih =>
    obtain ⟨hi, his⟩ := List.forall_mem_cons.1 hc
    have first := exec_of_carriesData hi s
    rw [applyStream_constructed _ _ hv, respondOk_eq, byteSteps_responses] at first
    obtain ⟨rs, count, data, run⟩ := ih his (s := { (byteSteps Config.E (payload i) s).2 with
      responses := s.responses ++ [0x00 :: (byteSteps Config.E (payload i) s).1] }) ((byteSteps_valid ..).trans hv)
    rw [byteSteps_withResponses Config.E (is.flatMap payload)] at data run
    refine ⟨(0x00 :: (byteSteps Config.E (payload i) s).1) :: rs, congrArg Nat.succ count, ?_, ?_⟩
    · rw [List.flatMap_cons, byteSteps_append, ← data]; rfl
    · rw [performAll_cons_of_exec first, run, List.flatMap_cons, byteSteps_append, List.append_assoc]; rfl

end Sys2Proof.Machine
end

section
/-! PROOFS. What an instance keeps to itself (`20_memory.md`): a step is the command its frame decodes to (R50), no
keystream outlives its instance (R55), and which calls the block-cipher port sees (R47, R48). -/

namespace Sys2Proof.Machine

open Sys2Proof

/-- Settles O4: the frame is taken off the script and performed. -/
theorem stepPerformsDecodedCommand : Obligations.StepPerformsDecodedCommand := by
  intro s f rest i hs hd
  simp only [step, nextEvent, hs, performFrame, hd]

theorem step_of_reset {s : State} {rest : List HostEvent} (hs : s.script = .reset :: rest) :
    step s = .next (resetEvent Config.KEYLEN { s with script := rest }) := by
  simp only [step, nextEvent, hs]

/-! ## The life of an instance -/

/-- A new instance answers apply commands under its own keystream, and makes the calls for its own counter
blocks, `ceil(n/16)` of them for `n` bytes. -/
theorem init_then_apply (s : State) {k : List Byte} (hk : k.length = Config.KEYLEN) (d : Block) {cmds : List Instr}
    (hc : ∀ i ∈ cmds, carriesData i = true) :
    ∃ a t rs, exec (.init k d.toList) s = .next a ∧ performAll cmds a = .next t ∧
      t.responses = a.responses ++ rs ∧
      responseData rs = xorStream (cmds.flatMap payload) (keystream Config.E k d) ∧
      t.cipherCalls = s.cipherCalls ++
        callsFrom Config.E k (intBE d) (blocksFor (cmds.flatMap payload).length) := by
  have loads : exec (.init k d.toList) s = .next _ := congrArg Host.Outcome.next (initialise_loads d s hk)
  obtain ⟨rs, -, data, run⟩ := performAll_apply hc (s := { s with
    regs := Registers.fresh k d
    ghost := some { c0 := d, pos := 0, nref := 0 }
    responses := s.responses ++ [[0x00]] }) rfl
  refine ⟨_, _, rs, loads, run, rfl, ?_, ?_⟩
  · rw [data, byteSteps_output]
    exact congrArg _ (funext (upcoming_exhausted _ rfl))
  · rw [← refillsFor_exhausted (r := Registers.fresh k d) rfl]; exact byteSteps_cipherCalls ..

/-- A data byte of an instance needs a block, so the calls begin with the one for the initial counter. -/
theorem head?_callsFrom_blocksFor (E : Cipher) (k : List Byte) (d : Block) {n : Nat} (h : n ≠ 0) :
    (callsFrom E k (intBE d) (blocksFor n)).head? = some { key := k, block := d, result := E k d } := by
  obtain ⟨m, rfl⟩ := Nat.exists_eq_succ_of_ne_zero h
  rw [blocksFor_succ, callsFrom_succ_inc128]; rfl

/-- INIT, successful or not, leaves the buffer empty and zero. -/
theorem exec_init_empties_buffer (s : State) (k c : List Byte) :
    ∃ t, exec (.init k c) s = .next t ∧ t.regs.off = 16 ∧ t.regs.ksb = zeroBlock := by
  rcases exec_cases (.init k c) s with ⟨_, _, -, -, h⟩ | ⟨_, _, -, -, h⟩ | ⟨_, _, -, -, -, h⟩ | ⟨hi, -⟩ |
    ⟨hi, -⟩ | ⟨hi, -⟩
  · exact ⟨_, h, rfl, rfl⟩
  · exact ⟨_, h, rfl, rfl⟩
  · exact ⟨_, h, rfl, rfl⟩
  all_goals cases hi

/-- Settles O23 from `init_then_apply`; INIT, CLEAR and reset write the buffer whatever it held. -/
theorem noStaleKeystream : Obligations.NoStaleKeystream := by
  refine ⟨exec_init_empties_buffer, fun s => ⟨_, rfl, rfl, rfl⟩,
    fun s rest hs => ⟨_, step_of_reset hs, rfl, rfl⟩, ?_⟩
  rintro s k _ d cmds hk rfl hc
  obtain ⟨a, t, rs, loads, run, responses, data, calls⟩ := init_then_apply s hk d hc
  refine ⟨a, t, rs, loads, run, responses, data, fun hne => ?_⟩
  rw [calls, List.drop_left]
  exact head?_callsFrom_blocksFor _ _ _ (mt List.length_eq_zero_iff.1 hne)

/-! ## The calls of a command and of a step -/

/-- Every call a command makes is one for a counter value from `CTR` on under the `KEY` held before it; only data
bytes on a constructed engine cause any. -/
theorem exec_cipherCalls {s t : State} {i : Instr} (h : exec i s = .next t) :
    ∃ m, t.cipherCalls = s.cipherCalls ++ callsFrom Config.E s.regs.key (intBE s.regs.ctr) m ∧
      (carriesData i = false ∨ payload i = [] ∨ s.regs.valid = false → m = 0) := by
  rcases exec_cases i s with ⟨_, _, -, -, h'⟩ | ⟨_, _, -, -, h'⟩ | ⟨_, _, -, -, -, h'⟩ | ⟨-, h'⟩ | ⟨-, -, h'⟩ |
    ⟨hi, hv, h'⟩ <;> cases h.symm.trans h'
  · exact ⟨0, (List.append_nil _).symm, fun _ => rfl⟩
  · exact ⟨0, (List.append_nil _).symm, fun _ => rfl⟩
  · exact ⟨0, (List.append_nil _).symm, fun _ => rfl⟩
  · exact ⟨0, (List.append_nil _).symm, fun _ => rfl⟩
  · exact ⟨0, (List.append_nil _).symm, fun _ => rfl⟩
  · refine ⟨_, byteSteps_cipherCalls .., ?_⟩
    rintro (hi' | hp | hv')
    · cases hi.symm.trans hi'
    · rw [hp]; exact refillsFor_zero s.regs
    · cases hv.symm.trans hv'

/-- Settles O39: the calls of an instance are `init_then_apply`'s; those of a command are `exec_cipherCalls`'. -/
theorem cipherCallsOfAnInstance : Obligations.CipherCallsOfAnInstance := by
  refine ⟨fun s k c0 cmds hk hc => ?_, fun s t i ht hi => ?_, fun s t ht hd => ?_⟩
  · obtain ⟨a, t, -, loads, run, -, -, calls⟩ := init_then_apply s hk c0 hc
    exact ⟨t, (performAll_cons_of_exec loads cmds).trans run, calls⟩
  · obtain ⟨m, calls, noCall⟩ := exec_cipherCalls ht
    simpa [noCall hi] using calls
  · rcases step_cases ht with ⟨-, rfl⟩ | ⟨_, -, rfl⟩ | ⟨_, _, _, -, -, rfl⟩ | ⟨f, i, _, hs, hf, -⟩
    · rfl
    · rfl
    · rfl
    · exact absurd hf (hd f i (by rw [hs]; rfl))

/-- Settles O40: only a command makes calls, under the `KEY` the step finds, whose length the invariant gives. -/
theorem portCallsCarryTheKey : Obligations.PortCallsCarryTheKey := by
  intro s t inv ht
  have noCalls : ∀ c ∈ ([] : List CipherCall),
      c.key = s.regs.key ∧ c.key.length = Config.KEYLEN ∧ c.result = Config.E c.key c.block := by simp
  rcases step_cases ht with ⟨-, rfl⟩ | ⟨_, -, rfl⟩ | ⟨_, _, _, -, -, rfl⟩ | ⟨_, _, _, -, -, h⟩
  · exact ⟨[], (List.append_nil _).symm, noCalls⟩
  · exact ⟨[], (List.append_nil _).symm, noCalls⟩
  · exact ⟨[], (List.append_nil _).symm, noCalls⟩
  · obtain ⟨m, calls, -⟩ := exec_cipherCalls h
    refine ⟨_, calls, fun c hc => ?_⟩
    obtain ⟨_, -, rfl⟩ := List.mem_map.1 hc
    exact ⟨rfl, inv.keyLength, rfl⟩

end Sys2Proof.Machine
end

section
/-! PROOFS. The frames (`30_encoding.md`): the encoder and the decoder as inverses (R66, R69), the illegal frames
(R70), and the assembler's pseudo-commands (R74). -/

namespace Sys2Proof

/-! ## The 16-bit field -/

theorem be16Hi_be16 (hi lo : Byte) : be16Hi (be16 hi lo) = hi := by
  have high : (256 * hi.toNat + lo.toNat) / 256 = hi.toNat := by have := lo.isLt; omega
  rw [be16Hi, be16, high, BitVec.ofNat_toNat, BitVec.setWidth_eq]

theorem be16Lo_be16 (hi lo : Byte) : be16Lo (be16 hi lo) = lo := by
  apply BitVec.eq_of_toNat_eq
  have := lo.isLt
  rw [be16Lo, be16, BitVec.toNat_ofNat]; omega

theorem be16_le_LENMAX (hi lo : Byte) : be16 hi lo ≤ Config.LENMAX := by
  have := hi.isLt
  have := lo.isLt
  rw [be16, Config.LENMAX]; omega

/-! ## The decoder by opcode -/

section
variable (rest : Frame)

theorem decode_opcode_init : decode (0x01 :: rest) = decodeInit rest := rfl
theorem decode_opcode_apply : decode (0x02 :: rest) = decodeApply rest := rfl
theorem decode_opcode_applyb : decode (0x03 :: rest) = decodeApplyb rest := rfl
theorem decode_opcode_applyw : decode (0x04 :: rest) = decodeApplyw rest := rfl
theorem decode_opcode_clear : decode (0x05 :: rest) = decodeClear rest := rfl

end

/-- The opcode map of R66: five defined opcodes, the others reserved. -/
theorem opcode_cases (op : Byte) :
    op = 0x01 ∨ op = 0x02 ∨ op = 0x03 ∨ op = 0x04 ∨ op = 0x05 ∨ op = 0x00 ∨ 0x06 ≤ op.toNat := by
  bv_omega

theorem decode_reserved {op : Byte} (h : op = 0x00 ∨ 0x06 ≤ op.toNat) (rest : Frame) :
    decode (op :: rest) = .error (.reservedOpcode op) := by
  have defined : op ≠ 0x01 ∧ op ≠ 0x02 ∧ op ≠ 0x03 ∧ op ≠ 0x04 ∧ op ≠ 0x05 := by bv_omega
  obtain ⟨h1, h2, h3, h4, h5⟩ := defined
  rw [decode, if_neg h1, if_neg h2, if_neg h3, if_neg h4, if_neg h5]

theorem decodeInit_of_length {a b : Byte} {body : List Byte} (h : body.length = a.toNat + b.toNat) :
    decodeInit (a :: b :: body) = .ok (.init (body.take a.toNat) (body.drop a.toNat)) := if_pos h

theorem decodeApply_of_length {a b : Byte} {data : List Byte} (h : data.length = be16 a b) :
    decodeApply (a :: b :: data) = .ok (.apply data) := if_pos h

/-! ## Round trips -/

/-- Decoding the frame of a command whose operands fit their fields gives the command. -/
theorem decode_encode {i : Instr} (h : i.wellFormed = true) : decode (encode i) = .ok i := by
  cases i with
  | init k c =>
    simp only [Instr.wellFormed, Bool.and_eq_true, decide_eq_true_eq] at h
    obtain ⟨hk, hc⟩ := h
    have klen : (BitVec.ofNat 8 k.length).toNat = k.length := Nat.mod_eq_of_lt (Nat.lt_succ_of_le hk)
    have clen : (BitVec.ofNat 8 c.length).toNat = c.length := Nat.mod_eq_of_lt (Nat.lt_succ_of_le hc)
    refine (decodeInit_of_length (by rw [klen, clen, List.length_append])).trans ?_
    rw [klen, List.take_left, List.drop_left]
  | apply data =>
    simp only [Instr.wellFormed, decide_eq_true_eq] at h
    exact decodeApply_of_length (be16_of_bytes h).symm
  | applyb _ => rfl
  | applyw _ _ _ _ => rfl
  | clear => rfl

/-- A command's frame has the length of R66. -/
theorem encode_length (i : Instr) : (encode i).length = frameLength i := by
  cases i with
  | init k c => exact (Laws.EncodeShape.init k c).2
  | apply data => exact (Laws.EncodeShape.apply data).2
  | applyb _ => rfl
  | applyw _ _ _ _ => rfl
  | clear => rfl

/-- A frame the decoder accepts is the encoding of its command, whose operands fit their fields. -/
theorem encode_of_decode {f : Frame} {i : Instr} (h : decode f = .ok i) : encode i = f ∧ i.wellFormed = true := by
  rcases decode_ok_cases h with ⟨a, b, body, rfl, hlen, rfl⟩ | ⟨a, b, data, rfl, hlen, rfl⟩ | ⟨d, rfl, rfl⟩ |
    ⟨d0, d1, d2, d3, rfl, rfl⟩ | ⟨rfl, rfl⟩
  · have klen : (body.take a.toNat).length = a.toNat := List.length_take_of_le (by omega)
    have clen : (body.drop a.toNat).length = b.toNat := by rw [List.length_drop]; omega
    have ha := a.isLt
    have hb := b.isLt
    constructor
    · simp [encode, opcode, encodeOperands, klen, clen]
    · simp only [Instr.wellFormed, klen, clen, Bool.and_eq_true, decide_eq_true_eq]; omega
  · constructor
    · simp [encode, opcode, encodeOperands, hlen, be16Hi_be16, be16Lo_be16]
    · simpa [Instr.wellFormed, hlen] using be16_le_LENMAX a b
  · exact ⟨rfl, rfl⟩
  · exact ⟨rfl, rfl⟩
  · exact ⟨rfl, rfl⟩

/-- Settles O7 with `decode_encode`, which goes by the kind of command. -/
theorem decodeOfEncodeIsTheCommand : Obligations.DecodeOfEncodeIsTheCommand := fun _ => decode_encode

/-- Settles O8 from the five forms of a legal frame; its length is that of the command's encoding. -/
theorem legalFrameIsItsCommandsEncoding : Obligations.LegalFrameIsItsCommandsEncoding := by
  intro f i h
  obtain ⟨henc, hwf⟩ := encode_of_decode h
  exact ⟨henc, hwf, henc ▸ encode_length i⟩

/-- Settles O6: the frames are written out. -/
theorem specFramesDecode : Obligations.SpecFramesDecode := by
  unfold Obligations.SpecFramesDecode; decide

/-- Settles O10: the assembler writes APPLY's frame, which for data that fits decodes to APPLY. -/
theorem pseudoCommandsAreApply : Obligations.PseudoCommandsAreApply := by
  intro data
  refine ⟨rfl, rfl, fun hlen => ?_⟩
  have hwf : (Instr.apply data).wellFormed = true := decide_eq_true hlen
  have prints : disassemble (encode (.apply data)) = .command (.apply data) := by
    rw [disassemble, decode_encode hwf]
  exact ⟨prints, prints⟩

/-! ## Which operand bytes are illegal -/

theorem decodeInit_error_iff (rest : Frame) :
    (∃ e, decodeInit rest = .error e) ↔
      ∀ a b body, rest = a :: b :: body → body.length ≠ a.toNat + b.toNat := by
  match rest with
  | [] => simp [decodeInit]
  | [a] => simp [decodeInit]
  | a :: b :: body => by_cases h : body.length = a.toNat + b.toNat <;> simp [decodeInit, h]

theorem decodeApply_error_iff (rest : Frame) :
    (∃ e, decodeApply rest = .error e) ↔
      ∀ a b body, rest = a :: b :: body → body.length ≠ 256 * a.toNat + b.toNat := by
  match rest with
  | [] => simp [decodeApply]
  | [a] => simp [decodeApply]
  | a :: b :: data => by_cases h : data.length = 256 * a.toNat + b.toNat <;> simp [decodeApply, be16, h]

theorem decodeApplyb_error_iff (rest : Frame) : (∃ e, decodeApplyb rest = .error e) ↔ rest.length ≠ 1 := by
  unfold decodeApplyb
  split
  · simp
  · next other => simpa [List.length_eq_one_iff] using other

theorem decodeApplyw_error_iff (rest : Frame) : (∃ e, decodeApplyw rest = .error e) ↔ rest.length ≠ 4 := by
  unfold decodeApplyw
  split
  · simp
  · next other => simpa [List.length_eq_four] using other

theorem decodeClear_error_iff (rest : Frame) : (∃ e, decodeClear rest = .error e) ↔ rest.length ≠ 0 := by
  cases rest <;> simp [decodeClear]

end Sys2Proof

namespace Sys2Proof.Machine

open Sys2Proof

/-! ## What answers a frame -/

theorem step_of_frame {s : State} {f : Frame} {rest : List HostEvent} (hs : s.script = .frame f :: rest) :
    step s = performFrame f { s with script := rest } := by
  simp only [step, nextEvent, hs]

theorem step_of_illegal {s : State} {f : Frame} {rest : List HostEvent} {e : Illegal}
    (hs : s.script = .frame f :: rest) (hd : decode f = .error e) :
    step s = .next { s with script := rest, responses := s.responses ++ [[0x04]] } := by
  simp only [step_of_frame hs, performFrame, hd, rejectFrame_eq]

/-- Settles O9: by the opcode, each defined one with the lemma on its operand bytes; the answer is
`step_of_illegal`. -/
theorem illegalFramesExactlyAndUnchanged : Obligations.IllegalFramesExactlyAndUnchanged := by
  refine ⟨fun f => ?_, fun s f rest e hs hd => step_of_illegal hs hd⟩
  rcases f with _ | ⟨op, rest⟩
  · simp [decode]
  · rcases opcode_cases op with rfl | rfl | rfl | rfl | rfl | reserved
    · rw [decode_opcode_init, decodeInit_error_iff]; simp
    · rw [decode_opcode_apply, decodeApply_error_iff]; simp
    · rw [decode_opcode_applyb, decodeApplyb_error_iff]; simp
    · rw [decode_opcode_applyw, decodeApplyw_error_iff]; simp
    · rw [decode_opcode_clear, decodeClear_error_iff]; simp
    · exact ⟨fun _ => .inr (.inl ⟨op, rest, rfl, reserved⟩), fun _ => ⟨_, decode_reserved reserved rest⟩⟩

/-- An INIT answers one status alone: OK, InvalidKey or InvalidCounter. -/
theorem exec_init_response (k c : List Byte) (s : State) :
    ∃ t r, exec (.init k c) s = .next t ∧ t.script = s.script ∧ t.responses = s.responses ++ [r] ∧
      (r = [0x00] ∨ r = [0x01] ∨ r = [0x02]) := by
  rcases exec_cases (.init k c) s with ⟨_, _, -, -, h⟩ | ⟨_, _, -, -, h⟩ | ⟨_, _, -, -, -, h⟩ | ⟨hi, -⟩ |
    ⟨hi, -⟩ | ⟨hi, -⟩
  · exact ⟨_, _, h, rfl, rfl, .inl rfl⟩
  · exact ⟨_, _, h, rfl, rfl, .inr (.inl rfl)⟩
  · exact ⟨_, _, h, rfl, rfl, .inr (.inr rfl)⟩
  all_goals cases hi

/-- An apply command answers OK with as many bytes as it carries, or NotConstructed alone. -/
theorem exec_apply_response {i : Instr} (hi : carriesData i = true) (s : State) :
    ∃ t r, exec i s = .next t ∧ t.script = s.script ∧ t.responses = s.responses ++ [r] ∧
      if s.regs.valid then ∃ data, r = 0x00 :: data ∧ data.length = (payload i).length else r = [0x03] := by
  have applied := exec_of_carriesData hi s
  cases hv : s.regs.valid with
  | false =>
    rw [applyStream_unconstructed _ _ hv] at applied
    exact ⟨_, _, applied, rfl, rfl, rfl⟩
  | true =>
    rw [applyStream_constructed _ _ hv, respondOk_eq, byteSteps_responses] at applied
    exact ⟨_, _, applied, byteSteps_script .., rfl, _, rfl, byteSteps_length ..⟩

/-- Settles O11: by what the frame decodes to; the three apply commands share `exec_apply_response`. -/
theorem oneResponsePerFrame : Obligations.OneResponsePerFrame := by
  intro s f rest hs
  cases hd : decode f with
  | error e => exact ⟨_, _, step_of_illegal hs hd, rfl, rfl, rfl⟩
  | ok i =>
    rw [stepPerformsDecodedCommand s f rest i hs hd]
    cases i with
    | init k c => exact exec_init_response k c _
    | apply data => exact exec_apply_response (i := .apply data) rfl _
    | applyb d => exact exec_apply_response (i := .applyb d) rfl _
    | applyw d0 d1 d2 d3 => exact exec_apply_response (i := .applyw d0 d1 d2 d3) rfl _
    | clear => exact ⟨_, _, rfl, rfl, rfl, rfl⟩

end Sys2Proof.Machine
end

section
/-! PROOFS. The registers after a run of byte steps in closed form (`10_state.md` R33 to R35), and the host's `apply`
of any length as consecutive APPLY commands (`30_encoding.md` R73, R76). -/

namespace Sys2Proof

/-! ## The chunks of an input -/

/-- An input that fits a frame is its own one chunk. -/
theorem chunksOf_of_fits (fuel : Nat) {input : List Byte} (h : input.length ≤ Config.LENMAX) :
    chunksOf (fuel + 1) input = [input] := by rw [chunksOf, if_pos h]

/-- A longer input gives a full chunk and then the chunks of the rest. -/
theorem chunksOf_of_long (fuel : Nat) {input : List Byte} (h : ¬ input.length ≤ Config.LENMAX) :
    chunksOf (fuel + 1) input = input.take Config.LENMAX :: chunksOf fuel (input.drop Config.LENMAX) := by
  rw [chunksOf, if_neg h]

/-- With more fuel than bytes no byte of the input is lost, and the chunks are in order. -/
theorem flatten_chunksOf {fuel : Nat} {input : List Byte} (h : input.length < fuel) :
    (chunksOf fuel input).flatten = input := by
  induction fuel generalizing input with
  | zero => omega
  | succ fuel ih =>
    by_cases fits : input.length ≤ Config.LENMAX
    · simp [chunksOf_of_fits fuel fits]
    · have shorter : (input.drop Config.LENMAX).length < fuel := by
        rw [List.length_drop]; simp only [Config.LENMAX] at fits ⊢; omega
      rw [chunksOf_of_long fuel fits, List.flatten_cons, ih shorter, List.take_append_drop]

/-- Every chunk fits a frame. -/
theorem length_le_of_mem_chunksOf {fuel : Nat} {input chunk : List Byte} (h : chunk ∈ chunksOf fuel input) :
    chunk.length ≤ Config.LENMAX := by
  induction fuel generalizing input with
  | zero => cases h
  | succ fuel ih =>
    by_cases fits : input.length ≤ Config.LENMAX
    · rw [chunksOf_of_fits fuel fits, List.mem_singleton] at h
      exact h ▸ fits
    · rw [chunksOf_of_long fuel fits, List.mem_cons] at h
      rcases h with rfl | later
      · exact List.length_take_le ..
      · exact ih later

/-- The commands of `apply(input)` are legal APPLY commands. -/
theorem apply_of_mem_apiApply {input : List Byte} {i : Instr} (h : i ∈ apiApply input) :
    ∃ data, i = .apply data ∧ i.wellFormed = true := by
  obtain ⟨chunk, hmem, rfl⟩ := List.mem_map.1 h
  exact ⟨chunk, rfl, decide_eq_true (length_le_of_mem_chunksOf hmem)⟩

/-- The commands of `apply(input)` carry the input's bytes in order. -/
theorem payload_apiApply (input : List Byte) : (apiApply input).flatMap Machine.payload = input := by
  rw [apiApply, List.flatMap_map]
  exact List.flatMap_id'.trans (flatten_chunksOf (Nat.lt_succ_self _))

end Sys2Proof

namespace Sys2Proof.Machine

open Sys2Proof

/-! ## The registers after byte steps -/

theorem AdvancedBy.refl (E : Cipher) (r : Registers) : AdvancedBy E 0 r r where
  key := rfl
  valid := rfl
  off := by simp [refillsFor_zero]
  ctr := by rw [refillsFor_zero]; exact (Nat.mod_eq_of_lt (intBE_lt r.ctr)).symm
  ksb := by rw [if_pos (refillsFor_zero r)]

/-- A byte from the buffer, then `n` more, are `n + 1` bytes. -/
theorem AdvancedBy.of_buffered {E : Cipher} {n : Nat} {s : State} {r : Registers} (h : s.regs.off.val < 16)
    (rest : AdvancedBy E n (nextKeystreamByte E s).2.regs r) : AdvancedBy E (n + 1) s.regs r := by
  rw [nextKeystreamByte_buffered E h] at rest
  have refills : refillsFor (take s h).2.regs n = refillsFor s.regs (n + 1) := by
    simp only [refillsFor, take_off]; congr 1; omega
  obtain ⟨key, valid, off, ctr, ksb⟩ := rest
  rw [refills] at off ctr ksb
  refine ⟨key, valid, ?_, ctr, ksb⟩
  rw [off, take_off]; omega

/-- A byte that needs a refill, then `n` more, are `n + 1` bytes. -/
theorem AdvancedBy.of_exhausted {E : Cipher} {n : Nat} {s : State} {r : Registers} (h : s.regs.off.val = 16)
    (rest : AdvancedBy E n (nextKeystreamByte E s).2.regs r) : AdvancedBy E (n + 1) s.regs r := by
  have laterRefills : refillsFor (nextKeystreamByte E s).2.regs n = n / 16 := by
    rw [nextKeystreamByte_exhausted E h]; exact congrArg (· / 16) (by simp)
  have refills : refillsFor s.regs (n + 1) = n / 16 + 1 := (refillsFor_exhausted h _).trans (blocksFor_succ n)
  obtain ⟨key, valid, off, ctr, ksb⟩ := rest
  rw [laterRefills] at off ctr ksb
  rw [nextKeystreamByte_exhausted E h] at key valid off ctr ksb
  refine ⟨key, valid, ?_, ?_, ?_⟩
  · rw [refills, off, h]; simp; omega
  · rw [refills, ctr, intBE_inc128, Nat.mod_add_mod, Nat.add_assoc, Nat.add_comm 1]
  · rw [refills, ksb, if_neg (Nat.succ_ne_zero _), Nat.add_sub_cancel]
    split
    · next noRefill => rw [noRefill, counterBlock_intBE_zero]
    · next refilled => rw [counterBlock_intBE_inc128, Nat.sub_add_cancel (Nat.pos_of_ne_zero refilled)]

/-- Byte steps advance the registers by the number of their bytes. -/
theorem byteSteps_advancedBy (E : Cipher) (data : List Byte) (s : State) :
    AdvancedBy E data.length s.regs (byteSteps E data s).2.regs := by
  induction data generalizing s with
  | nil => exact .refl E s.regs
  | cons b bs ih =>
    rw [byteSteps_cons]
    rcases off_lt_or_exhausted s with h | h
    · exact .of_buffered h (ih _)
    · exact .of_exhausted h (ih _)

/-- Settles O38: the chunks carry the input's bytes, and apply commands are one run of byte steps over theirs. -/
theorem apiApplyOfAnyLength : Obligations.ApiApplyOfAnyLength := by
  intro s input hv
  have carries : ∀ i ∈ apiApply input, carriesData i = true := by
    intro i hi
    obtain ⟨data, rfl, -⟩ := apply_of_mem_apiApply hi
    rfl
  obtain ⟨rs, -, data, run⟩ := performAll_apply carries hv
  rw [payload_apiApply] at data run
  refine ⟨payload_apiApply input, fun _ => apply_of_mem_apiApply,
    fun fits => congrArg (List.map Instr.apply) (chunksOf_of_fits _ fits), _, rs, run, rfl, ?_, ?_⟩
  · rw [data, byteSteps_output]
  · exact byteSteps_advancedBy ..

end Sys2Proof.Machine
end

section
/-! PROOFS. The counter-increment engine: the carry chain of INC128 byte by byte (`40_counter_increment.md` R80), its
value (R81), and the silent wrap of the counter (R82). -/

namespace Sys2Proof.Machine

open Sys2Proof

/-! ## The carry chain -/

theorem byte_add_one_eq_zero_iff (x : Byte) : x + 1 = 0 ↔ x = 0xFF := by bv_omega

/-- The loop leaves the bytes it no longer looks at. -/
theorem getElem_inc128From_of_le {n : Nat} (h : n ≤ 16) (b : Block) {i : Fin 16} (hi : n ≤ i.val) :
    (inc128From n h b)[i] = b[i] := by
  induction n generalizing b with
  | zero => rfl
  | succ n ih =>
    have other : n ≠ i.val := Nat.ne_of_lt hi
    by_cases wraps : b[n] + 1 = 0
    · rw [inc128From_wrap h b wraps, ih _ _ (Nat.le_of_succ_le hi)]; simp [other]
    · rw [inc128From_stop h b wraps]; simp [other]

/-- A byte is incremented when every byte from which a carry must come to it is `0xFF`. -/
theorem getElem_inc128From_of_carry {n : Nat} (h : n ≤ 16) (b : Block) {i : Fin 16} (hi : i.val < n)
    (carry : ∀ j : Fin 16, i < j → j.val < n → b[j] = 0xFF) : (inc128From n h b)[i] = b[i] + 1 := by
  induction n generalizing b with
  | zero => cases hi
  | succ n ih =>
    rcases Nat.lt_succ_iff_lt_or_eq.1 hi with left | rfl
    · have wraps : b[n] + 1 = 0 := (byte_add_one_eq_zero_iff _).2 (carry ⟨n, h⟩ left (Nat.lt_succ_self n))
      have kept (j : Fin 16) (hj : j.val < n) : (b.set n 0)[j] = b[j] := by simp [Nat.ne_of_gt hj]
      rw [inc128From_wrap h b wraps, ih _ _ left, kept i left]
      intro j right hj
      rw [kept j hj, carry j right (Nat.lt_succ_of_lt hj)]
    · by_cases wraps : b[i.val] + 1 = 0
      · rw [inc128From_wrap h b wraps, getElem_inc128From_of_le _ _ (Nat.le_refl _)]
        exact (Vector.getElem_set_self _).trans wraps.symm
      · rw [inc128From_stop h b wraps]
        exact Vector.getElem_set_self _

/-- A byte with a byte other than `0xFF` between it and the end of the loop's bytes is unchanged: no carry gets past
that one. -/
theorem getElem_inc128From_of_stop {n : Nat} (h : n ≤ 16) (b : Block) {i j : Fin 16} (right : i < j)
    (hj : j.val < n) (stop : b[j] ≠ 0xFF) : (inc128From n h b)[i] = b[i] := by
  induction n generalizing b with
  | zero => cases hj
  | succ n ih =>
    have other : n ≠ i.val := by have := Fin.lt_def.1 right; omega
    by_cases wraps : b[n] + 1 = 0
    · have before : j.val ≠ n := by
        rintro rfl
        exact stop ((byte_add_one_eq_zero_iff _).1 wraps)
      rw [inc128From_wrap h b wraps, ih _ _ (by omega) (by simpa [before.symm] using stop)]
      simp [other]
    · rw [inc128From_stop h b wraps]; simp [other]

/-- Settles O14: the loop starts with all sixteen bytes to look at, and a byte to the right of byte `i` stops the
carry or none does. -/
theorem inc128CarryChain : Obligations.Inc128CarryChain := by
  intro b i
  split
  · next carry => exact getElem_inc128From_of_carry _ b i.isLt fun j right _ => carry j right
  · next stopped =>
    push Not at stopped
    obtain ⟨j, right, stop⟩ := stopped
    exact getElem_inc128From_of_stop _ b right j.isLt stop

/-- Settles O15 with `intBE_inc128`, and `blk` as the inverse of `int`. -/
theorem inc128AddsOneModulo : Obligations.Inc128AddsOneModulo :=
  fun b => ⟨intBE_inc128 b, by rw [← intBE_inc128, blkBE_intBE]⟩

/-! ## The wrap of the counter -/

/-- In the block all `0xFF` the carry reaches every byte and each wraps. -/
theorem inc128_allOnes : inc128 (Vector.replicate 16 0xFF) = zeroBlock := by
  ext1 i hi
  have wraps := inc128CarryChain (Vector.replicate 16 0xFF) ⟨i, hi⟩
  simpa [zeroBlock] using wraps

/-- APPLYB on an exhausted buffer (`43_apply.md` R110): a refill, then byte 0 of the new block, for any counter. -/
theorem exec_applyb_exhausted (d : Byte) {s : State} (valid : s.regs.valid = true) (off : s.regs.off.val = 16) :
    ∃ t, exec (.applyb d) s = .next t ∧
      t.regs = { s.regs with
        ctr := inc128 s.regs.ctr, ksb := Config.E s.regs.key s.regs.ctr, off := 1 } ∧
      t.responses = s.responses ++ [[(0x00 : Byte), d ^^^ (Config.E s.regs.key s.regs.ctr)[0]]] := by
  have applied := exec_of_carriesData (i := .applyb d) rfl s
  rw [applyStream_constructed _ _ valid, respondOk_eq, byteSteps_responses, payload, byteSteps_cons,
    nextKeystreamByte_exhausted _ off] at applied
  exact ⟨_, applied, rfl, rfl⟩

/-- Settles O17: the refill is the one for any counter, `exec_applyb_exhausted`, and the counter after it is
`inc128_allOnes`. -/
theorem counterWrapsSilently : Obligations.CounterWrapsSilently := by
  refine ⟨inc128_allOnes, fun s d valid off ctr => ?_⟩
  have applied := exec_applyb_exhausted d valid (congrArg Fin.val off)
  rwa [ctr, inc128_allOnes] at applied

end Sys2Proof.Machine
end

section
/-! PROOFS. The keystream-buffer manager: what REFILL and TAKE do (`41_keystream_buffer.md` R92, R93), the period of the
keystream (R98), and the refill that waits for its byte (R96). -/

namespace Sys2Proof.Machine

open Sys2Proof

/-! ## REFILL and TAKE -/

/-- Settles O20: the one record update REFILL makes, from the old `CTR`, and the offset it leaves. -/
theorem refillReadsCounterThenIncrements : Obligations.RefillReadsCounterThenIncrements := by
  intro E s
  have buffered : ¬ exhausted (refill E s).regs = true := by rw [exhausted_iff, refill_off]; decide
  exact ⟨rfl, Bool.eq_false_of_not_eq_true buffered⟩

/-- Settles O21: TAKE's byte and its record update; the advanced offset is 16 exactly when the old one was 15. -/
theorem takeIsPostIncrementRead : Obligations.TakeIsPostIncrementRead := by
  intro s h
  refine ⟨take_byte s h, take_off s h, rfl, ?_⟩
  rw [exhausted_iff, take_off]
  omega

/-! ## The period of the keystream -/

theorem intBE_counterBlock (v n : Nat) : intBE (counterBlock v n) = (v + n) % 2 ^ 128 := by
  rw [counterBlock, intBE_blkBE, Nat.mod_mod]

theorem counterBlock_add_period (v n : Nat) : counterBlock v (n + 2 ^ 128) = counterBlock v n := by
  rw [counterBlock, counterBlock, ← Nat.add_assoc, Nat.add_mod_right]

/-- Fewer than 2^128 places apart, counter blocks from one value on are different. -/
theorem eq_of_counterBlock_eq {v m n : Nat} (hm : m < 2 ^ 128) (hn : n < 2 ^ 128)
    (h : counterBlock v m = counterBlock v n) : m = n := by
  have values : v + m ≡ v + n [MOD 2 ^ 128] := by
    rw [Nat.ModEq, ← intBE_counterBlock, h, intBE_counterBlock]
  exact (Nat.ModEq.add_left_cancel' v values).eq_of_lt_of_lt hm hn

/-- Settles O33: 2^132 bytes are 2^128 whole blocks, and the counter block comes back after as many. -/
theorem keystreamPeriod : Obligations.KeystreamPeriod := by
  refine ⟨fun E k c0 j => ?_, fun c0 m n => eq_of_counterBlock_eq⟩
  have block : (j + 2 ^ 132) / 16 = j / 16 + 2 ^ 128 := by omega
  have byte : (j + 2 ^ 132) % 16 = j % 16 := by omega
  simp only [keystream, block, byte, counterBlock_add_period]

/-! ## The lazy refill -/

/-- Apply commands on a constructed engine advance its registers by the number of their bytes. -/
theorem performAll_apply_advancedBy {cmds : List Instr} (hc : ∀ i ∈ cmds, carriesData i = true) {s : State}
    (hv : s.regs.valid = true) :
    ∃ t, performAll cmds s = .next t ∧ AdvancedBy Config.E (cmds.flatMap payload).length s.regs t.regs := by
  obtain ⟨rs, -, -, run⟩ := performAll_apply hc hv
  exact ⟨_, run, byteSteps_advancedBy _ _ s⟩

/-- Sixteen bytes of a new instance cost one refill (`41_keystream_buffer.md` R96): the second block waits for the
seventeenth byte. -/
theorem ctr_after_sixteen_bytes (s : State) {k data : List Byte} (hk : k.length = Config.KEYLEN) (d : Block)
    (h16 : data.length = 16) :
    ∃ t, performAll [.init k d.toList, .apply data] s = .next t ∧ intBE t.regs.ctr = (intBE d + 1) % 2 ^ 128 := by
  have loads : exec (.init k d.toList) s = .next _ := congrArg Host.Outcome.next (initialise_loads d s hk)
  have carries : ∀ i ∈ [Instr.apply data], carriesData i = true := List.forall_mem_singleton.2 rfl
  obtain ⟨t, run, advanced⟩ := performAll_apply_advancedBy carries (s := { s with
    regs := Registers.fresh k d
    ghost := some { c0 := d, pos := 0, nref := 0 }
    responses := s.responses ++ [[0x00]] }) rfl
  have refills : refillsFor (Registers.fresh k d) ([Instr.apply data].flatMap payload).length = 1 := by
    rw [refillsFor_exhausted rfl]; simp [payload, h16, blocksFor]
  have ctr := advanced.ctr
  rw [refills] at ctr
  exact ⟨t, (performAll_cons_of_exec loads _).trans run, ctr⟩

/-- Refutes O46: from reset, after INIT with the counter zero and one APPLY of sixteen zero bytes, the counter is 1
and not 2. -/
theorem not_eagerRefillAfterSixteenBytes : ¬ Obligations.EagerRefillAfterSixteenBytes := by
  intro eager
  obtain ⟨t, run, lazy⟩ :=
    ctr_after_sixteen_bytes State.reset Tests.someKey_length zeroBlock (data := zeroBytes 16) rfl
  have twice := eager _ t _ zeroBlock (zeroBytes 16) Tests.someKey_length rfl run
  have zero : intBE zeroBlock = 0 := by decide
  rw [lazy, zero] at twice
  omega

end Sys2Proof.Machine
end

section
/-! PROOFS. The XOR datapath: the laws of XORB (`42_xor_datapath.md` R100, R101), and XORW lane by lane and on the
32-bit reading of a word (R102, R104). -/

namespace Sys2Proof.Machine

open Sys2Proof

/-- Settles O18: XORB is the exclusive-or of bit vectors, and the laws are the library's for it. -/
theorem xorbLaws : Obligations.XorbLaws := by
  refine ⟨BitVec.xor_comm, BitVec.xor_assoc, fun a k => ?selfInverse, fun a k i _ => BitVec.getLsbD_xor⟩
  calc (a ^^^ k) ^^^ k = a ^^^ (k ^^^ k) := BitVec.xor_assoc a k k
    _ = a := by rw [BitVec.xor_self, BitVec.xor_zero]

theorem getElem_xorw (a k : Word) : (j : Fin 4) → (xorw a k)[j] = xorb a[j] k[j]
  | 0 | 1 | 2 | 3 => rfl

/-- Exclusive-or of two 32-bit readings is lane by lane: no lane reaches another. -/
theorem xorw_lanes_append (a k : Word) :
    (xorw a k)[0] ++ (xorw a k)[1] ++ (xorw a k)[2] ++ (xorw a k)[3] =
      (a[0] ++ a[1] ++ a[2] ++ a[3]) ^^^ (k[0] ++ k[1] ++ k[2] ++ k[3]) := by
  rw [BitVec.xor_append, BitVec.xor_append, BitVec.xor_append]
  rfl

/-- Settles O19: the lanes are `getElem_xorw`, the 32-bit reading is `xorw_lanes_append`. -/
theorem xorwIsLaneByLane : Obligations.XorwIsLaneByLane :=
  fun a k => ⟨getElem_xorw a k, xorw_lanes_append a k⟩

end Sys2Proof.Machine
end

section
/-! PROOFS. What an apply command does (`43_apply.md`): refused (R120), or as many byte steps as it carries bytes,
whose answer and state after are read off the registers before (R114, R96); APPLY of no byte (R115), APPLYB
(R110) and APPLYW (R112) as its instances. -/

namespace Sys2Proof.Machine

open Sys2Proof

/-! ## Refused and empty commands -/

/-- Settles O27: the three apply commands are one operation, which looks at `VALID` first. -/
theorem refusedApplyChangesNothing : Obligations.RefusedApplyChangesNothing := by
  intro s i hi hv
  rw [exec_of_carriesData hi, applyStream_unconstructed _ _ hv]

/-- An apply command on a constructed engine answers OK with the output of its byte steps. -/
theorem exec_of_constructed {i : Instr} (hi : carriesData i = true) {s : State} (hv : s.regs.valid = true) :
    exec i s = .next { (byteSteps Config.E (payload i) s).2 with
      responses := s.responses ++ [0x00 :: (byteSteps Config.E (payload i) s).1] } := by
  rw [exec_of_carriesData hi, applyStream_constructed _ _ hv, respondOk_eq, byteSteps_responses]

/-- Settles O28: no byte is no byte step, and the command is answered by `VALID`. -/
theorem emptyApplyChangesNothing : Obligations.EmptyApplyChangesNothing := by
  refine ⟨rfl, fun s => ?_⟩
  cases hv : s.regs.valid with
  | false => exact refusedApplyChangesNothing s (.apply []) rfl hv
  | true => exact exec_of_constructed (i := .apply []) rfl hv

/-! ## One byte -/

/-- Settles O29 with the two ways to a keystream byte; APPLYB and APPLY of its byte carry the same data. -/
theorem applybIsOneByteStep : Obligations.ApplybIsOneByteStep := by
  intro s d
  refine ⟨rfl, refusedApplyChangesNothing s (.applyb d) rfl, fun hv off => ?exhausted, fun off hv => ?buffered,
    (exec_of_carriesData rfl s).trans (exec_of_carriesData (i := .apply [d]) rfl s).symm⟩
  case exhausted =>
    obtain ⟨-, incremented⟩ := inc128AddsOneModulo s.regs.ctr
    rw [exec_of_constructed rfl hv, payload, byteSteps_cons,
      nextKeystreamByte_exhausted _ (congrArg Fin.val off), incremented]
    rfl
  case buffered =>
    rw [exec_of_constructed rfl hv, payload, byteSteps_cons, nextKeystreamByte_buffered _ off]
    rfl

/-! ## The registers some bytes on -/

/-- How far the registers have advanced says what they are. -/
theorem AdvancedBy.eq {E : Cipher} {n : Nat} {r r' : Registers} (h : AdvancedBy E n r r') :
    r' = { r with
      off := r'.off
      ctr := counterBlock (intBE r.ctr) (refillsFor r n)
      ksb := if refillsFor r n = 0 then r.ksb
        else E r.key (counterBlock (intBE r.ctr) (refillsFor r n - 1)) } := by
  obtain ⟨key, valid, -, ctr, ksb⟩ := h
  rw [← eq_counterBlock ctr, ← ksb, ← key, ← valid]

/-- The registers after a number of bytes do not depend on the bytes (R119). -/
theorem AdvancedBy.unique {E : Cipher} {n : Nat} {r r₁ r₂ : Registers} (h₁ : AdvancedBy E n r r₁)
    (h₂ : AdvancedBy E n r r₂) : r₁ = r₂ := by
  have off : r₁.off = r₂.off := Fin.ext (h₁.off.trans h₂.off.symm)
  rw [h₁.eq, h₂.eq, off]

/-- With no refill only `OFF` moves. -/
theorem AdvancedBy.eq_of_no_refill {E : Cipher} {n : Nat} {r r' : Registers} (h : AdvancedBy E n r r')
    (noRefill : refillsFor r n = 0) : r' = { r with off := r'.off } := by
  have eq := h.eq
  rwa [noRefill, counterBlock_intBE_zero, if_pos rfl] at eq

/-- With one refill the block in the buffer is the one for the old `CTR`, and `CTR` is one further. -/
theorem AdvancedBy.eq_of_one_refill {E : Cipher} {n : Nat} {r r' : Registers} (h : AdvancedBy E n r r')
    (oneRefill : refillsFor r n = 1) :
    r' = { r with off := r'.off, ksb := E r.key r.ctr, ctr := blkBE ((intBE r.ctr + 1) % 2 ^ 128) } := by
  have eq := h.eq
  rwa [oneRefill, if_neg Nat.one_ne_zero, Nat.sub_self, counterBlock_intBE_zero] at eq

/-! ## The state some bytes on -/

/-- `t` is `s` after `n` data bytes, whatever it has answered: the registers, the script, the ghost variables and the
calls on the port. -/
structure StreamedBy (n : Nat) (s t : State) : Prop where
  regs : AdvancedBy Config.E n s.regs t.regs
  script : t.script = s.script
  ghost : t.ghost = s.ghost.map fun g => { g with pos := g.pos + n, nref := g.nref + refillsFor s.regs n }
  calls : t.cipherCalls = s.cipherCalls ++
    callsFrom Config.E s.regs.key (intBE s.regs.ctr) (refillsFor s.regs n)

/-- The state after a number of bytes does not depend on the bytes, nor on how they were framed (R117, R119). -/
theorem StreamedBy.unique {n : Nat} {s t t' : State} (h : StreamedBy n s t) (h' : StreamedBy n s t') :
    t.regs = t'.regs ∧ t.ghost = t'.ghost ∧ t.cipherCalls = t'.cipherCalls ∧ t.script = t'.script :=
  ⟨h.regs.unique h'.regs, h.ghost.trans h'.ghost.symm, h.calls.trans h'.calls.symm, h.script.trans h'.script.symm⟩

theorem StreamedBy.withResponses {n : Nat} {s t : State} (h : StreamedBy n s t) (rs : List Frame) :
    StreamedBy n s { t with responses := rs } := ⟨h.regs, h.script, h.ghost, h.calls⟩

/-- A byte from the buffer leaves the refills to the bytes after it. -/
theorem refillsFor_succ_buffered (E : Cipher) {s : State} (h : s.regs.off.val < 16) (n : Nat) :
    refillsFor s.regs (n + 1) = refillsFor (nextKeystreamByte E s).2.regs n := by
  rw [nextKeystreamByte_buffered E h]
  simp only [refillsFor, take_off]; congr 1; omega

/-- A byte from an exhausted buffer takes one refill itself. -/
theorem refillsFor_succ_exhausted (E : Cipher) {s : State} (h : s.regs.off.val = 16) (n : Nat) :
    refillsFor s.regs (n + 1) = refillsFor (nextKeystreamByte E s).2.regs n + 1 := by
  rw [refillsFor_exhausted h, blocksFor_succ, nextKeystreamByte_exhausted E h]
  simp [refillsFor]

/-- Byte steps count their bytes in `POS` and their refills in `NREF` (R92, R93). -/
theorem byteSteps_ghost (E : Cipher) (data : List Byte) (s : State) :
    (byteSteps E data s).2.ghost = s.ghost.map fun g =>
      { g with pos := g.pos + data.length, nref := g.nref + refillsFor s.regs data.length } := by
  induction data generalizing s with
  | nil => simp [byteSteps, refillsFor_zero]
  | cons b bs ih =>
    rw [byteSteps_cons, ih, List.length_cons]
    rcases off_lt_or_exhausted s with h | h
    · rw [refillsFor_succ_buffered E h, nextKeystreamByte_buffered E h]
      simp [Ghost.countTake, Function.comp_def, Nat.add_assoc, Nat.add_comm 1]
    · rw [refillsFor_succ_exhausted E h, nextKeystreamByte_exhausted E h]
      simp [Function.comp_def, Nat.add_assoc, Nat.add_comm 1]

theorem byteSteps_streamedBy (data : List Byte) (s : State) :
    StreamedBy data.length s (byteSteps Config.E data s).2 :=
  ⟨byteSteps_advancedBy .., byteSteps_script .., byteSteps_ghost .., byteSteps_cipherCalls ..⟩

/-- What an apply command does to a constructed engine, and what it answers. -/
theorem exec_apply {i : Instr} (hi : carriesData i = true) {s : State} (hv : s.regs.valid = true) :
    ∃ t, exec i s = .next t ∧
      t.responses = s.responses ++ [0x00 :: xorStream (payload i) (upcoming Config.E s.regs)] ∧
      StreamedBy (payload i).length s t :=
  ⟨_, exec_of_constructed hi hv, by rw [byteSteps_output], (byteSteps_streamedBy ..).withResponses _⟩

/-- Settles O31 with `exec_apply` for APPLY. -/
theorem applyComputesItsStream : Obligations.ApplyComputesItsStream := by
  intro s data hv
  obtain ⟨t, applied, responses, streamed⟩ := exec_apply (i := .apply data) rfl hv
  exact ⟨t, applied, streamed.script, responses, streamed.regs, streamed.ghost, streamed.calls⟩

/-! ## Four bytes -/

/-- APPLYBs of the bytes of `data` are one run of byte steps, each output byte in a response of its own. -/
theorem performAll_applybs (data : List Byte) {s : State} (hv : s.regs.valid = true) :
    performAll (data.map .applyb) s = .next { (byteSteps Config.E data s).2 with
      responses := s.responses ++ (byteSteps Config.E data s).1.map fun o => [0x00, o] } := by
  induction data generalizing s with
  | nil => simp [performAll, byteSteps]
  | cons b bs ih =>
    have later := ih (s := { (byteSteps Config.E [b] s).2 with
      responses := s.responses ++ [0x00 :: (byteSteps Config.E [b] s).1] }) ((byteSteps_valid ..).trans hv)
    rw [byteSteps_withResponses Config.E bs, List.append_assoc] at later
    rw [List.map_cons, performAll_cons_of_exec (exec_of_constructed rfl hv)]
    exact later

/-- Settles O30: four byte steps, which from an offset up to 12 need no refill and from 13 on one. -/
theorem applywIsFourByteSteps : Obligations.ApplywIsFourByteSteps := by
  intro s d0 d1 d2 d3
  refine ⟨rfl, refusedApplyChangesNothing s (.applyw d0 d1 d2 d3) rfl, fun hv => ?constructed,
    (exec_of_carriesData rfl s).trans (exec_of_carriesData (i := .apply [d0, d1, d2, d3]) rfl s).symm⟩
  obtain ⟨t, applied, responses, streamed⟩ := exec_apply (i := .applyw d0 d1 d2 d3) rfl hv
  change StreamedBy 4 s t at streamed
  refine ⟨t, applied, streamed.script, responses, fun off => ?within, fun off => ?across, ?bytes⟩
  case within =>
    have noRefill : refillsFor s.regs 4 = 0 := by rw [refillsFor]; omega
    refine ⟨streamed.regs.eq_of_no_refill noRefill, ?_, ?_, ?_⟩
    · rw [streamed.regs.off, noRefill]; rfl
    · rw [streamed.ghost, noRefill]; rfl
    · rw [streamed.calls, noRefill, callsFrom_zero, List.append_nil]
  case across =>
    have oneRefill : refillsFor s.regs 4 = 1 := by rw [refillsFor]; omega
    refine ⟨streamed.regs.eq_of_one_refill oneRefill, ?_, ?_, ?_⟩
    · rw [streamed.regs.off, oneRefill]
    · rw [streamed.ghost, oneRefill]
    · rw [streamed.calls, oneRefill, callsFrom_succ_inc128, callsFrom_zero]
  case bytes =>
    obtain ⟨regs, ghost, calls, -⟩ := (byteSteps_streamedBy [d0, d1, d2, d3] s).unique streamed
    exact ⟨_, performAll_applybs [d0, d1, d2, d3] hv, by rw [byteSteps_output]; rfl, regs, ghost, calls⟩

end Sys2Proof.Machine
end

section
/-! PROOFS. The stream of an instance (`43_apply.md`): the output contract (R116), continuity over any split (R117), two
engines that undo each other (R118), and that only the number of bytes matters to the state (R119). -/

namespace Sys2Proof.Machine

open Sys2Proof

/-! ## The exclusive-or of a stream -/

/-- Exclusive-or with the same keystream twice gives the data back (`42_xor_datapath.md` R101). -/
theorem xorStream_xorStream (data : List Byte) (k : Nat → Byte) : xorStream (xorStream data k) k = data := by
  apply List.ext_getElem
  · simp [xorStream]
  · intro j _ _
    simp [xorStream]

/-- Zero bytes are answered with the keystream itself. -/
theorem xorStream_zeros (n : Nat) (k : Nat → Byte) :
    xorStream (List.replicate n 0) k = (List.range n).map k := by
  apply List.ext_getElem
  · simp [xorStream]
  · intro j _ _
    simp [xorStream]

/-- Under one keystream two outputs differ exactly where the inputs do. -/
theorem zipWith_xor_xorStream (x y : List Byte) (k : Nat → Byte) :
    List.zipWith (· ^^^ ·) (xorStream x k) (xorStream y k) = List.zipWith (· ^^^ ·) x y := by
  have cancel (a b c : Byte) : (a ^^^ c) ^^^ (b ^^^ c) = a ^^^ b := by
    rw [BitVec.xor_comm b c, ← BitVec.xor_assoc, BitVec.xor_assoc a c c, BitVec.xor_self, BitVec.xor_zero]
  apply List.ext_getElem
  · simp [xorStream]
  · intro j _ _
    simp [xorStream, cancel]

/-! ## The output contract -/

/-- The blocks refilled so far are the bytes consumed and those left in the buffer (`10_state.md` R33). -/
theorem InstanceInv.blocks_eq {s : State} {g : Ghost} (hi : InstanceInv s g) :
    16 * g.nref + s.regs.off.val = g.pos + 16 := by
  rw [hi.nref, hi.off, blocksFor]
  split <;> omega

/-- The keystream from a later counter block on is the rest of the keystream from the first. -/
theorem keystream_counterBlock (E : Cipher) (k : List Byte) (c : Block) (m j : Nat) :
    keystream E k (counterBlock (intBE c) m) j = keystream E k c (16 * m + j) := by
  have block : (16 * m + j) / 16 = m + j / 16 := by omega
  have byte : (16 * m + j) % 16 = j % 16 := by omega
  have counter : counterBlock (intBE (counterBlock (intBE c) m)) (j / 16) =
      counterBlock (intBE c) (m + j / 16) := by
    rw [counterBlock, intBE_counterBlock, Nat.mod_add_mod, Nat.add_assoc, ← counterBlock]
  simp only [keystream, block, byte, counter]

/-- What lies ahead of an instance is its keystream from `POS` on. -/
theorem InstanceInv.upcoming_eq {s : State} {g : Ghost} (hi : InstanceInv s g) (j : Nat) :
    upcoming Config.E s.regs j = keystream Config.E s.regs.key g.c0 (g.pos + j) := by
  have blocks := hi.blocks_eq
  rw [upcoming]
  split
  · next inside =>
    have refilled : g.nref ≠ 0 := by omega
    have position : g.pos + j = 16 * (g.nref - 1) + (s.regs.off.val + j) := by omega
    have ksb := hi.ksb
    rw [if_neg refilled] at ksb
    rw [position, ← keystream_counterBlock, keystream_of_lt _ _ _ inside]
    simp only [ksb]
  · next past =>
    have position : g.pos + j = 16 * g.nref + (s.regs.off.val + j - 16) := by omega
    rw [position, ← keystream_counterBlock, ← eq_counterBlock hi.ctr]

/-- The refills of further bytes are the blocks they newly begin (R114). -/
theorem InstanceInv.refillsFor_eq {s : State} {g : Ghost} (hi : InstanceInv s g) (n : Nat) :
    refillsFor s.regs n = blocksFor (g.pos + n) - blocksFor g.pos := by
  have blocks := hi.blocks_eq
  have nref := hi.nref
  simp only [refillsFor, blocksFor] at *
  omega

/-- Settles O32: `exec_apply`, where the keystream ahead of the registers is the instance's from `POS` on. -/
theorem outputContract : Obligations.OutputContract := by
  intro s g i inv hg hi
  have inst := inv.constructed g hg
  have hv : s.regs.valid = true := by rw [← inv.ghostExists, hg]; rfl
  obtain ⟨t, applied, responses, streamed⟩ := exec_apply hi hv
  refine ⟨t, applied, ?_, ?_⟩
  · rw [responses, funext inst.upcoming_eq]
  · rw [streamed.ghost, hg, inst.refillsFor_eq, Option.map_some]

/-! ## Continuity -/

/-- What apply commands do to a constructed engine, and what they answer between them. -/
theorem performAll_apply_stream {cmds : List Instr} (hc : ∀ i ∈ cmds, carriesData i = true) {s : State}
    (hv : s.regs.valid = true) :
    ∃ t rs, performAll cmds s = .next t ∧ t.responses = s.responses ++ rs ∧ rs.length = cmds.length ∧
      responseData rs = xorStream (cmds.flatMap payload) (upcoming Config.E s.regs) ∧
      StreamedBy (cmds.flatMap payload).length s t := by
  obtain ⟨rs, count, data, run⟩ := performAll_apply hc hv
  exact ⟨_, rs, run, rfl, count, data.trans (byteSteps_output ..), (byteSteps_streamedBy ..).withResponses _⟩

/-- Settles O34: the split and the one APPLY stream as many bytes, and both answer the data exclusive-or the keystream
ahead. -/
theorem continuityOverAnySplit : Obligations.ContinuityOverAnySplit := by
  intro s cmds hv hc
  obtain ⟨t, rs, run, responses, count, data, streamed⟩ := performAll_apply_stream hc hv
  obtain ⟨u, applied, whole, streamedWhole⟩ := exec_apply (i := .apply (cmds.flatMap payload)) rfl hv
  exact ⟨t, rs, u, run, responses, count, applied, by rw [whole, data]; rfl, streamedWhole.unique streamed⟩

/-! ## Two engines that undo each other -/

/-- The operands of an INIT that succeeds: a key of the right length and the bytes of a block (R125). -/
theorem operands_of_isGoodInit {k c : List Byte} (good : isGoodInit (.init k c) = true) :
    k.length = Config.KEYLEN ∧ ∃ d : Block, c = d.toList := by
  simp only [isGoodInit, Bool.and_eq_true, decide_eq_true_eq] at good
  obtain ⟨hk, hc⟩ := good
  exact ⟨hk, ⟨⟨c⟩, hc⟩, rfl⟩

/-- A successful INIT and then apply commands: the new instance's registers, advanced by the number of bytes. -/
theorem init_then_apply_advancedBy {k : List Byte} (hk : k.length = Config.KEYLEN) (d : Block) {cmds : List Instr}
    (hc : ∀ i ∈ cmds, carriesData i = true) (s : State) :
    ∃ a, performAll (.init k d.toList :: cmds) s = .next a ∧
      AdvancedBy Config.E (cmds.flatMap payload).length (Registers.fresh k d) a.regs := by
  have loads : exec (.init k d.toList) s = .next _ := congrArg Host.Outcome.next (initialise_loads d s hk)
  rw [performAll_cons_of_exec loads]
  exact performAll_apply_advancedBy hc rfl

/-- Settles O35: after equally many bytes the two engines have the same registers, so the same keystream lies ahead of
both. -/
theorem applyIsAnInvolution : Obligations.ApplyIsAnInvolution := by
  intro s₁ s₂ k c before₁ before₂ enc dec good carries count
  simp only [List.forall_mem_append] at carries
  obtain ⟨⟨⟨hb₁, hb₂⟩, henc⟩, hdec⟩ := carries
  obtain ⟨hk, d, rfl⟩ := operands_of_isGoodInit good
  obtain ⟨a₁, run₁, advanced₁⟩ := init_then_apply_advancedBy hk d hb₁ s₁
  obtain ⟨a₂, run₂, advanced₂⟩ := init_then_apply_advancedBy hk d hb₂ s₂
  have same : a₁.regs = a₂.regs := advanced₁.unique (count ▸ advanced₂)
  obtain ⟨b₁, rs₁, run₁', responses₁, -, data₁, -⟩ := performAll_apply_stream henc (s := a₁) advanced₁.valid
  obtain ⟨b₂, rs₂, run₂', responses₂, -, data₂, -⟩ := performAll_apply_stream hdec (s := a₂) advanced₂.valid
  refine ⟨a₁, b₁, a₂, b₂, rs₁, rs₂, run₁, run₁', responses₁, run₂, run₂', responses₂, fun given => ?_⟩
  rw [data₂, given, data₁, same, xorStream_xorStream]

/-! ## The data's values -/

/-- Apply commands with equally many bytes leave one state equal, whether it takes or refuses them. -/
theorem exec_apply_state_of_length {s t t' : State} {i i' : Instr} (hi : carriesData i = true)
    (hi' : carriesData i' = true) (count : (payload i).length = (payload i').length)
    (ht : exec i s = .next t) (ht' : exec i' s = .next t') :
    t.regs = t'.regs ∧ t.ghost = t'.ghost ∧ t.cipherCalls = t'.cipherCalls := by
  cases hv : s.regs.valid with
  | false =>
    cases ht.symm.trans (refusedApplyChangesNothing s i hi hv)
    cases ht'.symm.trans (refusedApplyChangesNothing s i' hi' hv)
    exact ⟨rfl, rfl, rfl⟩
  | true =>
    obtain ⟨u, applied, -, streamed⟩ := exec_apply hi hv
    obtain ⟨u', applied', -, streamed'⟩ := exec_apply hi' hv
    cases ht.symm.trans applied
    cases ht'.symm.trans applied'
    obtain ⟨regs, ghost, calls, -⟩ := streamed.unique (count ▸ streamed')
    exact ⟨regs, ghost, calls⟩

/-- Settles O36: the state by the number of bytes, the outputs by the laws of `xorStream`. -/
theorem stateIndependentOfData : Obligations.StateIndependentOfData := by
  refine ⟨fun s t t' i i' => exec_apply_state_of_length, fun s g n inv hg => ?zeros,
    fun s i i' hi hi' _ hv => ?outputs⟩
  case zeros =>
    obtain ⟨t, applied, responses, -⟩ := outputContract s g (.apply (List.replicate n 0)) inv hg rfl
    exact ⟨t, applied, by rw [responses, payload, xorStream_zeros]⟩
  case outputs =>
    obtain ⟨t, applied, responses, -⟩ := exec_apply hi hv
    obtain ⟨t', applied', responses', -⟩ := exec_apply hi' hv
    exact ⟨t, t', _, _, applied, applied', responses, responses', zipWith_xor_xorStream ..⟩

/-! ## The first call -/

/-- Refutes O47: from reset, after INIT and an empty APPLY, one byte makes the instance's first call. -/
theorem not_emptyApplyUsesUpTheFirstCall : ¬ Obligations.EmptyApplyUsesUpTheFirstCall := by
  intro usedUp
  obtain ⟨calls, -⟩ := cipherCallsOfAnInstance
  obtain ⟨t, run, firstCall⟩ := calls State.reset Tests.someKey zeroBlock [.apply [], .applyb 0]
    Tests.someKey_length (by decide)
  have noCall := usedUp _ t _ zeroBlock 0 Tests.someKey_length run
  rw [firstCall] at noCall
  cases noCall

end Sys2Proof.Machine
end

section
/-! PROOFS. The lifecycle commands (`44_lifecycle.md`): INIT (R125), CLEAR (R128), and the two conditions of the engine
with the transitions between them (R129). -/

namespace Sys2Proof.Machine

open Sys2Proof

/-! ## INIT -/

/-- Settles O24: the frame is the encoder's, and each outcome of the two checks has its law of `initialise`. -/
theorem initLoadsOrUnconstructs : Obligations.InitLoadsOrUnconstructs := by
  intro s k c
  refine ⟨rfl, fun wrongKey => ?_, fun hk wrongCounter => ?_, ?_⟩
  · exact congrArg Host.Outcome.next (initialise_wrongKey c s wrongKey)
  · exact congrArg Host.Outcome.next (initialise_wrongCounter s hk wrongCounter)
  · rintro d hk rfl
    exact congrArg Host.Outcome.next (initialise_loads d s hk)

/-! ## CLEAR -/

/-- Commands none of which is a successful INIT leave an unconstructed engine unconstructed (R32). -/
theorem performAll_keeps_unconstructed {cmds : List Instr} (hc : ∀ j ∈ cmds, isGoodInit j = false) {s : State}
    (hr : s.regs = Registers.unconstructed Config.KEYLEN) :
    ∃ t, performAll cmds s = .next t ∧ t.regs = Registers.unconstructed Config.KEYLEN := by
  induction cmds generalizing s with
  | nil => exact ⟨s, rfl, hr⟩
  | cons j js ih =>
    obtain ⟨hj, hjs⟩ := List.forall_mem_cons.1 hc
    obtain ⟨u, hu⟩ := exec_answers j s
    rw [performAll_cons_of_exec hu]
    exact ih hjs ((exec_keeps_unconstructed hr hu hj).trans hr)

/-- Settles O25: CLEAR unconstructs whatever the engine held, only a successful INIT ends that, and an unconstructed
engine refuses apply commands. -/
theorem clearEndsTheInstance : Obligations.ClearEndsTheInstance := by
  have cleared (s : State) : exec .clear s = .next { s with
      regs := State.reset.regs, ghost := none, responses := s.responses ++ [[0x00]] } := rfl
  refine ⟨rfl, cleared, fun s t u ht hu => ?idempotent, fun s cmds i hc hi => ?refused⟩
  case idempotent =>
    cases ht.symm.trans (cleared s)
    cases hu.symm.trans (cleared _)
    exact ⟨rfl, rfl⟩
  case refused =>
    obtain ⟨t, run, unconstructed⟩ := performAll_keeps_unconstructed hc (s := clearEngine Config.KEYLEN s) rfl
    exact ⟨t, (performAll_cons_of_exec (cleared s) cmds).trans run,
      refusedApplyChangesNothing t i hi (congrArg Registers.valid unconstructed)⟩

/-! ## The two conditions -/

/-- An apply command is no INIT. -/
theorem isGoodInit_of_carriesData {i : Instr} (h : carriesData i = true) : isGoodInit i = false := by
  cases i with
  | init _ _ => cases h
  | _ => rfl

/-- `VALID` after a command (R129): set by a successful INIT, kept by an apply command, cleared by any other. -/
theorem exec_valid {s t : State} {i : Instr} (ht : exec i s = .next t) :
    t.regs.valid = (isGoodInit i || (carriesData i && s.regs.valid)) := by
  rcases exec_cases i s with ⟨k, d, rfl, hk, h⟩ | ⟨k, c, rfl, hk, h⟩ | ⟨k, c, rfl, -, hc, h⟩ | ⟨rfl, h⟩ |
    ⟨hi, hv, h⟩ | ⟨hi, hv, h⟩ <;> cases ht.symm.trans h
  · simp [isGoodInit, hk, Registers.fresh]
  · simp [isGoodInit, carriesData, hk]
  · simp [isGoodInit, carriesData, hc]
  · rfl
  · simp [isGoodInit_of_carriesData hi, hv]
  · simp [isGoodInit_of_carriesData hi, hi, respondOk]

/-- CLEAR and a failed INIT leave the reset registers (R125, R128). -/
theorem exec_unconstructs {s t : State} {i : Instr} (ht : exec i s = .next t) (hi : carriesData i = false)
    (failed : isGoodInit i = false) : t.regs = State.reset.regs := by
  rcases exec_cases i s with ⟨k, d, rfl, hk, -⟩ | ⟨_, _, -, -, h⟩ | ⟨_, _, -, -, -, h⟩ | ⟨-, h⟩ | ⟨hi', -⟩ | ⟨hi', -⟩
  · simp [isGoodInit, hk] at failed
  · cases ht.symm.trans h; rfl
  · cases ht.symm.trans h; rfl
  · cases ht.symm.trans h; rfl
  all_goals cases hi.symm.trans hi'

/-- Settles O26: the commands with `exec_valid` and `exec_unconstructs`, an illegal frame and reset with their steps. -/
theorem lifecycleTransitions : Obligations.LifecycleTransitions := by
  refine ⟨fun s t i ht => ⟨exec_valid ht, exec_unconstructs ht⟩, fun s t f rest e hs hd ht => ?illegal,
    fun s t rest hs ht => ?reset⟩
  case illegal => cases ht.symm.trans (step_of_illegal hs hd); rfl
  case reset => cases ht.symm.trans (step_of_reset hs); exact ⟨rfl, rfl⟩

end Sys2Proof.Machine
end

section
/-! PROOFS. Errors and statuses (`60_exceptions.md`): no state is stuck (R155), which status answers a frame and what
that status says of the state after (R140, R144 to R148), and so the responses that can be returned. -/

namespace Sys2Proof.Machine

open Sys2Proof

/-! ## No state is stuck -/

/-- No command touches the host's script. -/
theorem exec_script {i : Instr} {s t : State} (ht : exec i s = .next t) : t.script = s.script := by
  rcases exec_cases i s with ⟨_, _, -, -, h⟩ | ⟨_, _, -, -, h⟩ | ⟨_, _, -, -, -, h⟩ | ⟨-, h⟩ | ⟨-, -, h⟩ | ⟨-, -, h⟩ <;>
    cases ht.symm.trans h
  · rfl
  · rfl
  · rfl
  · rfl
  · rfl
  · exact byteSteps_script ..

/-- Settles O5 from `step_answers`: each case of a step takes the script's head, if there is one. -/
theorem everyStepAnswersNext : Obligations.EveryStepAnswersNext := by
  intro s
  obtain ⟨t, ht⟩ := step_answers s
  refine ⟨t, ht, ?_⟩
  rcases step_cases ht with ⟨hs, rfl⟩ | ⟨rest, hs, rfl⟩ | ⟨_, _, rest, hs, -, rfl⟩ | ⟨_, _, rest, hs, -, h⟩
  · rw [hs]; rfl
  · rw [hs]; rfl
  · rw [hs]; rfl
  · rw [hs]; exact exec_script h

/-! ## The status of a frame -/

/-- The status of a command by the checks of R144 to R146, in their order (R148), on an engine with this `VALID`. -/
def commandStatus (valid : Bool) : Instr → Status
  | .init k c =>
    if k.length ≠ Config.KEYLEN then .invalidKey else if c.length ≠ 16 then .invalidCounter else .ok
  | .clear => .ok
  | .apply _ | .applyb _ | .applyw _ _ _ _ => if valid then .ok else .notConstructed

/-- The status of a frame: legality is the first check of all (R147, R148). -/
def frameStatus (valid : Bool) (f : Frame) : Status :=
  match decode f with
  | .ok i => commandStatus valid i
  | .error _ => .illegalCommand

theorem commandStatus_of_carriesData {i : Instr} (hi : carriesData i = true) (valid : Bool) :
    commandStatus valid i = if valid then .ok else .notConstructed := by
  cases i with
  | init _ _ | clear => cases hi
  | _ => rfl

theorem commandStatus_eq_invalidKey_iff {valid : Bool} {i : Instr} :
    commandStatus valid i = .invalidKey ↔ ∃ k c, i = .init k c ∧ k.length ≠ Config.KEYLEN := by
  cases i with
  | init k c => rw [commandStatus]; split_ifs <;> simp_all
  | clear => simp [commandStatus]
  | _ => cases valid <;> simp [commandStatus]

theorem commandStatus_eq_invalidCounter_iff {valid : Bool} {i : Instr} :
    commandStatus valid i = .invalidCounter ↔
      ∃ k c, i = .init k c ∧ k.length = Config.KEYLEN ∧ c.length ≠ 16 := by
  cases i with
  | init k c => rw [commandStatus]; split_ifs <;> simp_all
  | clear => simp [commandStatus]
  | _ => cases valid <;> simp [commandStatus]

theorem commandStatus_eq_notConstructed_iff {valid : Bool} {i : Instr} :
    commandStatus valid i = .notConstructed ↔ carriesData i = true ∧ valid = false := by
  cases i with
  | init k c => rw [commandStatus]; split_ifs <;> simp [carriesData]
  | clear => simp [commandStatus, carriesData]
  | _ => cases valid <;> simp [commandStatus, carriesData]

theorem commandStatus_ne_illegalCommand (valid : Bool) (i : Instr) : commandStatus valid i ≠ .illegalCommand := by
  cases i with
  | init k c => rw [commandStatus]; split_ifs <;> simp
  | clear => simp [commandStatus]
  | _ => cases valid <;> simp [commandStatus]

/-- A status other than IllegalCommand is that of the command the frame decodes to. -/
theorem frameStatus_eq_iff {valid : Bool} {f : Frame} {st : Status} (hst : st ≠ .illegalCommand) :
    frameStatus valid f = st ↔ ∃ i, decode f = .ok i ∧ commandStatus valid i = st := by
  cases hd : decode f with
  | ok i => simp [frameStatus, hd]
  | error e => simp [frameStatus, hd, hst.symm]

theorem frameStatus_eq_invalidKey_iff {valid : Bool} {f : Frame} :
    frameStatus valid f = .invalidKey ↔ ∃ k c, decode f = .ok (.init k c) ∧ k.length ≠ Config.KEYLEN := by
  simp only [frameStatus_eq_iff (st := .invalidKey) (by decide), commandStatus_eq_invalidKey_iff]
  constructor
  · rintro ⟨_, hd, k, c, rfl, hk⟩; exact ⟨k, c, hd, hk⟩
  · rintro ⟨k, c, hd, hk⟩; exact ⟨_, hd, k, c, rfl, hk⟩

theorem frameStatus_eq_invalidCounter_iff {valid : Bool} {f : Frame} :
    frameStatus valid f = .invalidCounter ↔
      ∃ k c, decode f = .ok (.init k c) ∧ k.length = Config.KEYLEN ∧ c.length ≠ 16 := by
  simp only [frameStatus_eq_iff (st := .invalidCounter) (by decide), commandStatus_eq_invalidCounter_iff]
  constructor
  · rintro ⟨_, hd, k, c, rfl, lengths⟩; exact ⟨k, c, hd, lengths⟩
  · rintro ⟨k, c, hd, lengths⟩; exact ⟨_, hd, k, c, rfl, lengths⟩

theorem frameStatus_eq_notConstructed_iff {valid : Bool} {f : Frame} :
    frameStatus valid f = .notConstructed ↔ ∃ i, decode f = .ok i ∧ carriesData i = true ∧ valid = false := by
  simp only [frameStatus_eq_iff (st := .notConstructed) (by decide), commandStatus_eq_notConstructed_iff]

theorem frameStatus_eq_illegalCommand_iff {valid : Bool} {f : Frame} :
    frameStatus valid f = .illegalCommand ↔ ∃ e, decode f = .error e := by
  cases hd : decode f with
  | ok i => simp [frameStatus, hd, commandStatus_ne_illegalCommand]
  | error e => simp [frameStatus, hd]

/-! ## What a status says of the response and of the state after -/

theorem statusCode_inj {st st' : Status} : statusCode st = statusCode st' ↔ st = st' := by
  cases st <;> cases st' <;> decide

/-- What the host is told and what the engine is left with, by status (R140, R144 to R147): an error comes alone; a
failed INIT leaves the reset values, the other two errors the state as it was. -/
structure AnsweredBy (st : Status) (s t : State) : Prop where
  response : ∃ data, t.responses = s.responses ++ [statusCode st :: data] ∧ (st ≠ .ok → data = [])
  unconstructs : st = .invalidKey ∨ st = .invalidCounter → t.regs = State.reset.regs
  keeps : st = .notConstructed ∨ st = .illegalCommand →
    t.regs = s.regs ∧ t.ghost = s.ghost ∧ t.cipherCalls = s.cipherCalls

theorem AnsweredBy.responses_iff {st x : Status} {s t : State} (h : AnsweredBy st s t) (hx : x ≠ .ok) :
    t.responses = s.responses ++ [[statusCode x]] ↔ st = x := by
  obtain ⟨data, responses, alone⟩ := h.response
  rw [responses]
  constructor
  · intro same
    simp only [List.append_cancel_left_eq, List.cons.injEq] at same
    exact statusCode_inj.1 same.1.1
  · rintro rfl
    rw [alone hx]

theorem AnsweredBy.responsesLegal {st : Status} {s t : State} (h : AnsweredBy st s t) (hs : ResponsesLegal s) :
    ResponsesLegal t := by
  obtain ⟨data, responses, alone⟩ := h.response
  have legal : legalResponse (statusCode st :: data) = true := by
    cases st with
    | ok => rfl
    | _ => rw [alone (by decide)]; rfl
  intro r hr
  rw [responses, List.mem_append, List.mem_singleton] at hr
  rcases hr with earlier | rfl
  · exact hs r earlier
  · exact legal

/-- Every command answers its status. -/
theorem exec_answeredBy {i : Instr} {s t : State} (ht : exec i s = .next t) :
    AnsweredBy (commandStatus s.regs.valid i) s t := by
  rcases exec_cases i s with ⟨k, d, rfl, hk, h⟩ | ⟨k, c, rfl, hk, h⟩ | ⟨k, c, rfl, hk, hc, h⟩ | ⟨rfl, h⟩ |
    ⟨hi, hv, h⟩ | ⟨hi, hv, h⟩ <;> cases ht.symm.trans h
  · have status : commandStatus s.regs.valid (.init k d.toList) = .ok := by simp [commandStatus, hk]
    rw [status]; exact ⟨⟨[], rfl, fun _ => rfl⟩, by simp, by simp⟩
  · rw [commandStatus_eq_invalidKey_iff.2 ⟨k, c, rfl, hk⟩]
    exact ⟨⟨[], rfl, fun _ => rfl⟩, fun _ => rfl, by simp⟩
  · rw [commandStatus_eq_invalidCounter_iff.2 ⟨k, c, rfl, hk, hc⟩]
    exact ⟨⟨[], rfl, fun _ => rfl⟩, fun _ => rfl, by simp⟩
  · exact ⟨⟨[], rfl, fun _ => rfl⟩, by simp [commandStatus], by simp [commandStatus]⟩
  · rw [commandStatus_eq_notConstructed_iff.2 ⟨hi, hv⟩]
    exact ⟨⟨[], rfl, fun _ => rfl⟩, by simp, fun _ => ⟨rfl, rfl, rfl⟩⟩
  · rw [commandStatus_of_carriesData hi, hv]
    have response : (respondOk (byteSteps Config.E (payload i) s).1 (byteSteps Config.E (payload i) s).2).responses =
        s.responses ++ [statusCode .ok :: (byteSteps Config.E (payload i) s).1] := by simp [respondOk]
    exact ⟨⟨_, response, fun no => absurd rfl no⟩, by simp, by simp⟩

/-- Every step with a frame to take answers the frame's status. -/
theorem step_answeredBy {s t : State} {f : Frame} {rest : List HostEvent} (hs : s.script = .frame f :: rest)
    (ht : step s = .next t) : AnsweredBy (frameStatus s.regs.valid f) s t := by
  cases hd : decode f with
  | error e =>
    cases ht.symm.trans (step_of_illegal hs hd)
    rw [frameStatus_eq_illegalCommand_iff.2 ⟨e, hd⟩]
    exact ⟨⟨[], rfl, fun _ => rfl⟩, by simp, fun _ => ⟨rfl, rfl, rfl⟩⟩
  | ok i =>
    rw [stepPerformsDecodedCommand s f rest i hs hd] at ht
    have status : frameStatus s.regs.valid f = commandStatus s.regs.valid i := by simp [frameStatus, hd]
    obtain ⟨response, unconstructs, keeps⟩ := exec_answeredBy ht
    rw [status]; exact ⟨response, unconstructs, keeps⟩

/-- Settles O12: the response tells the frame's status, and each status has its condition and its state after. -/
theorem errorsExactlyWhenStated : Obligations.ErrorsExactlyWhenStated := by
  intro s f rest hs
  obtain ⟨t, ht⟩ := step_answers s
  have answered := step_answeredBy hs ht
  have invalidKey := answered.responses_iff (x := .invalidKey) (by decide)
  have invalidCounter := answered.responses_iff (x := .invalidCounter) (by decide)
  have notConstructed := answered.responses_iff (x := .notConstructed) (by decide)
  have illegalCommand := answered.responses_iff (x := .illegalCommand) (by decide)
  refine ⟨t, ht, ⟨invalidKey.trans frameStatus_eq_invalidKey_iff, fun told => ?_⟩,
    ⟨invalidCounter.trans frameStatus_eq_invalidCounter_iff, fun told => ?_⟩,
    ⟨notConstructed.trans frameStatus_eq_notConstructed_iff, fun told => ?_⟩,
    ⟨illegalCommand.trans frameStatus_eq_illegalCommand_iff, fun told => ?_⟩⟩
  · exact answered.unconstructs (.inl (invalidKey.1 told))
  · exact answered.unconstructs (.inr (invalidCounter.1 told))
  · exact answered.keeps (.inl (notConstructed.1 told))
  · exact answered.keeps (.inr (illegalCommand.1 told))

/-- Settles O13: an idle step and a reset return nothing, a frame is answered by its status. -/
theorem stepKeepsResponsesLegal : Obligations.StepKeepsResponsesLegal := by
  intro s t legal ht
  rcases step_cases ht with ⟨-, rfl⟩ | ⟨_, -, rfl⟩ | ⟨_, _, _, hs, -, -⟩ | ⟨_, _, _, hs, -, -⟩
  · exact legal
  · exact legal
  · exact (step_answeredBy hs ht).responsesLegal legal
  · exact (step_answeredBy hs ht).responsesLegal legal

end Sys2Proof.Machine
end

section
/-! PROOFS. Reset and hazards (`70_reset_and_hazards.md`): the reset event and the other ways to the unconstructed engine
(R171), the idle step (R172), and two engines that hold the same registers, which answer the same events alike (R181). -/

namespace Sys2Proof.Machine

open Sys2Proof

/-! ## Reset, CLEAR and a failed INIT -/

/-- An INIT that is not successful fails on the key or on the counter, and either way unconstructs the engine (R126). -/
theorem exec_failed_init (s : State) {k c : List Byte} (failed : isGoodInit (.init k c) = false) :
    ∃ t, exec (.init k c) s = .next t ∧ t.regs = State.reset.regs ∧ t.ghost = State.reset.ghost := by
  by_cases hk : k.length = Config.KEYLEN
  · have hc : c.length ≠ 16 := by simpa [isGoodInit, hk] using failed
    exact ⟨_, congrArg Host.Outcome.next (initialise_wrongCounter s hk hc), rfl, rfl⟩
  · exact ⟨_, congrArg Host.Outcome.next (initialise_wrongKey c s hk), rfl, rfl⟩

/-- Settles O2: the reset event and CLEAR are UNCONSTRUCT, in any state; a failed INIT is `exec_failed_init`. -/
theorem resetEventUnconstructs : Obligations.ResetEventUnconstructs :=
  ⟨fun _ _ hs => step_of_reset hs, fun _ => ⟨_, rfl, rfl, rfl⟩, fun s _ _ failed => exec_failed_init s failed⟩

/-! ## The idle step -/

/-- Settles O3: there is no next event. -/
theorem idleStepChangesNothing : Obligations.IdleStepChangesNothing := by
  intro s hs
  simp only [step, nextEvent, hs]

/-! ## Two engines with the same registers -/

/-- Two engines hold the same registers and have the same events to come; the ghost variables and the records may
differ. -/
structure Alike (s s' : State) : Prop where
  regs : s.regs = s'.regs
  script : s.script = s'.script

/-- Between `s` and `t` one engine returned the responses the other returned between `s'` and `t'`. -/
def SameAnswers (s s' t t' : State) : Prop :=
  ∃ rs, t.responses = s.responses ++ rs ∧ t'.responses = s'.responses ++ rs

theorem SameAnswers.refl (s s' : State) : SameAnswers s s' s s' :=
  ⟨[], (List.append_nil _).symm, (List.append_nil _).symm⟩

theorem SameAnswers.trans {s s' t t' u u' : State} (h : SameAnswers s s' t t') (h' : SameAnswers t t' u u') :
    SameAnswers s s' u u' := by
  obtain ⟨rs, first, first'⟩ := h
  obtain ⟨rs', later, later'⟩ := h'
  exact ⟨rs ++ rs', by rw [later, first, List.append_assoc], by rw [later', first', List.append_assoc]⟩

/-- Alike engines answer a command alike and stay alike: `onlyTheRegistersMatter` beside `exec_script`. -/
theorem Alike.after_exec {s s' : State} (h : Alike s s') (i : Instr) :
    ∃ t t', exec i s = .next t ∧ exec i s' = .next t' ∧ Alike t t' ∧ SameAnswers s s' t t' := by
  obtain ⟨t, t', r, ht, ht', regs, answer, answer'⟩ := onlyTheRegistersMatter s s' i h.regs
  have script : t.script = t'.script := by rw [exec_script ht, exec_script ht', h.script]
  exact ⟨t, t', ht, ht', ⟨regs, script⟩, [r], answer, answer'⟩

/-- Alike engines take the same step: idle, a reset, an illegal frame, or a command. -/
theorem Alike.after_step {s s' : State} (h : Alike s s') :
    ∃ t t', step s = .next t ∧ step s' = .next t' ∧ Alike t t' ∧ SameAnswers s s' t t' := by
  have hs' := h.script.symm
  rcases hs : s.script with _ | ⟨_ | _, rest⟩ <;> rw [hs] at hs'
  case nil => exact ⟨s, s', idleStepChangesNothing s hs, idleStepChangesNothing s' hs', h, .refl s s'⟩
  case cons.reset => exact ⟨_, _, step_of_reset hs, step_of_reset hs', ⟨rfl, rfl⟩, .refl s s'⟩
  case cons.frame f =>
    cases hd : decode f with
    | error e => exact ⟨_, _, step_of_illegal hs hd, step_of_illegal hs' hd, ⟨h.regs, rfl⟩, [[0x04]], rfl, rfl⟩
    | ok i =>
      rw [stepPerformsDecodedCommand s f rest i hs hd, stepPerformsDecodedCommand s' f rest i hs' hd]
      exact Alike.after_exec (s := { s with script := rest }) (s' := { s' with script := rest }) ⟨h.regs, rfl⟩ i

/-- Alike engines answer alike for any number of steps. -/
theorem Alike.after_run {s s' : State} (h : Alike s s') (n : Nat) :
    ∃ t t', core.run n s = .next t ∧ core.run n s' = .next t' ∧ Alike t t' ∧ SameAnswers s s' t t' := by
  induction n generalizing s s' with
  | zero => exact ⟨s, s', rfl, rfl, h, .refl s s'⟩
  | succ n ih =>
    obtain ⟨u, u', hu, hu', alike, first⟩ := h.after_step
    obtain ⟨t, t', ht, ht', alike, later⟩ := ih alike
    exact ⟨t, t', (run_succ_of_step (M := core) hu n).trans ht, (run_succ_of_step (M := core) hu' n).trans ht',
      alike, first.trans later⟩

/-- A successful INIT writes every register from the key and the counter (R125): engines with the same events to come
are alike after it, whatever they held. -/
theorem alike_of_initialise {k : List Byte} (hk : k.length = Config.KEYLEN) (d : Block) {s s' : State}
    (h : s.script = s'.script) :
    Alike (initialise Config.KEYLEN k d.toList s) (initialise Config.KEYLEN k d.toList s') := by
  rw [initialise_loads d s hk, initialise_loads d s' hk]
  exact ⟨rfl, h⟩

/-- Settles O45: the INIT makes the two engines alike, and alike engines answer alike from then on. -/
theorem sameKeyAndCounterSameAnswers : Obligations.SameKeyAndCounterSameAnswers := by
  intro s s' k c events n good
  obtain ⟨hk, d, rfl⟩ := operands_of_isGoodInit good
  have start := alike_of_initialise hk d (s := { s with script := events }) (s' := { s' with script := events }) rfl
  obtain ⟨t, t', ht, ht', alike, rs, answers, answers'⟩ := start.after_run n
  exact ⟨_, _, t, t', rs, rfl, rfl, ht, ht', alike.regs, alike.script, answers, answers'⟩

end Sys2Proof.Machine
end
